-- ==== Sys2Proof/Word.lean ====
section
/-! DEFINITION. The word of the goplayground VM core (00_scope.md R8).

R8: "A **word** is a `W`-bit two's-complement signed integer". The width `W` is a parameter of the
machine (R6, 93_implementation_defined.md U8), so a word is held as the signed integer it is, an
`Int`, and `FitsWord W` says that it is one of the `2^W` integers a `W`-bit word can be. Nothing in this
instruction set names a bit or a part of a word (R51), every index is compared as an exact integer
(R9), and the one operation that depends on the width is `wrap` (Machine/Arith.lean).
Log entry 1. -/

namespace Sys2Proof

/-- The least word of width `w`, `−2^(w−1)` (R8). -/
def wordMin (w : Nat) : Int := -((2 ^ (w - 1) : Nat) : Int)

/-- The greatest word of width `w`, `2^(w−1) − 1` (R8). -/
def wordMax (w : Nat) : Int := ((2 ^ (w - 1) : Nat) : Int) - 1

/-- `z` is a word of width `w`: it lies in `[−2^(w−1), 2^(w−1)−1]` (R8). -/
abbrev FitsWord (w : Nat) (z : Int) : Prop := wordMin w ≤ z ∧ z ≤ wordMax w

end Sys2Proof
end

