-- ==== Sys2Proof/Machine/Arith.lean ====
section
/-! DEFINITION. Integer arithmetic on words (00_scope.md R8, 41_const_arith_compare.md R117): compute
the exact integer, then reduce it with `wrap`. -/

namespace Sys2Proof.Machine

/-- `wrap(z)`: the one word of width `w` congruent to `z` modulo `2^w`,
`((z + 2^(w−1)) mod 2^w) − 2^(w−1)` (R8). -/
def wrap (w : Nat) (z : Int) : Int :=
  (z + ((2 ^ (w - 1) : Nat) : Int)) % ((2 ^ w : Nat) : Int) - ((2 ^ (w - 1) : Nat) : Int)

/-- `wrap(a + b)` (R112). -/
def addWord (w : Nat) (a b : Int) : Int := wrap w (a + b)

/-- `wrap(a − b)` (R113). -/
def subWord (w : Nat) (a b : Int) : Int := wrap w (a - b)

/-- `wrap(a * b)` (R114). -/
def mulWord (w : Nat) (a b : Int) : Int := wrap w (a * b)

/-- The word whose `w` bits, read as an unsigned number, are `n` modulo `2^w`: the two's-complement
reading of a program slot's bits (R8, R71). -/
def wordOfBits (w : Nat) (n : Nat) : Int := wrap w (n : Int)

/-- The `w` bits of a word as an unsigned number (R8: `bits[w−1:0]`). -/
def bitsOfWord (w : Nat) (z : Int) : Nat := (z % ((2 ^ w : Nat) : Int)).toNat

end Sys2Proof.Machine
end

