-- ==== Sys2Proof/Config.lean ====
section
/-! DEFINITION. The implementation parameters of one machine instance (00_scope.md R6, R7) and their
defaults. "Each is fixed for the life of one machine instance (from reset to the next reset)" (R6):
`Params` is the record of them that `State` carries, and only a reset replaces it.
The spec calls W, STACK_CAP and OPC parameters "the model takes as an argument"
(93_implementation_defined.md U8), so no rule of the model depends on their default values. -/

namespace Sys2Proof

/-- The 18 mnemonics of the instruction set GPVM, in the order of the opcode table (R2, R74). -/
inductive Mnemonic where
  | const | add | sub | mul | lt | eq | jmp | jmpt | jmpf | load | store | gload | gstore
  | call | ret | pop | print | halt
  deriving DecidableEq, Repr

/-- The parameter `OPC`: the opcode number of each mnemonic (R6, R74). It is configuration "so that
a different numbering changes no rule". -/
structure OpcodeMap where
  const : Int
  add : Int
  sub : Int
  mul : Int
  lt : Int
  eq : Int
  jmp : Int
  jmpt : Int
  jmpf : Int
  load : Int
  store : Int
  gload : Int
  gstore : Int
  call : Int
  ret : Int
  pop : Int
  print : Int
  halt : Int
  deriving DecidableEq, Repr

/-- The 18 opcode numbers, in table order. -/
def OpcodeMap.words (o : OpcodeMap) : List Int :=
  [o.const, o.add, o.sub, o.mul, o.lt, o.eq, o.jmp, o.jmpt, o.jmpf, o.load, o.store, o.gload,
    o.gstore, o.call, o.ret, o.pop, o.print, o.halt]

/-- The implementation parameters (R6). `PROG_LEN` is the length of `prog`. -/
structure Params where
  /-- `W`, the width in bits of a word -/
  w : Nat
  /-- `STACK_CAP`, the number of slots of the operand stack -/
  stackCap : Nat
  /-- `LOCALS_SIZE`, the number of slots of the locals store -/
  localsSize : Nat
  /-- `PROG`, the program: a sequence of words, read only (R50, R61) -/
  prog : List Int
  /-- `START_PC`, the value of pc after reset -/
  startPc : Int
  /-- `OPC`, the opcode numbering -/
  opc : OpcodeMap
  deriving DecidableEq, Repr

/-- The constraints on the parameters (R7, 92_eei_decisions.md D2, D28). `START_PC` need not be an
index of the program: that is the configuration error of reset, not an illegal parameter. -/
abbrev Params.valid (p : Params) : Prop :=
  8 ≤ p.w ∧ p.stackCap < 2 ^ (p.w - 1) ∧ p.localsSize < 2 ^ (p.w - 1) ∧
  p.prog.length < 2 ^ (p.w - 1) ∧ (∀ x ∈ p.prog, FitsWord p.w x) ∧ FitsWord p.w p.startPc ∧
  p.opc.words.Nodup ∧ (∀ x ∈ p.opc.words, FitsWord p.w x) ∧ (255 : Int) ∉ p.opc.words

namespace Config

/-- The default width (R6, D1). -/
def defaultW : Nat := 64

/-- The default stack capacity (R6, D4). -/
def defaultStackCap : Nat := 100

/-- The default opcode numbering: table order counted from 1 (R74, D2). -/
def defaultOpc : OpcodeMap where
  const := 1
  add := 2
  sub := 3
  mul := 4
  lt := 5
  eq := 6
  jmp := 7
  jmpt := 8
  jmpf := 9
  load := 10
  store := 11
  gload := 12
  gstore := 13
  call := 14
  ret := 15
  pop := 16
  print := 17
  halt := 18

/-- `EMPTY_SP`, the value of sp that means "stack empty" (R6, R24, D3). It is fixed, not a free
parameter. -/
def emptySp : Int := -1

/-- The parameters of a machine for which no host has yet supplied a program: every parameter that
has a default is at it, and the three that are "argument of construction" (R6) are at nothing: the
empty program, no locals, start index 0. DESIGN CHOICE, log entry 3. -/
def unloaded : Params where
  w := defaultW
  stackCap := defaultStackCap
  localsSize := 0
  prog := []
  startPc := 0
  opc := defaultOpc

end Config

end Sys2Proof
end

