-- ==== Sys2Proof/Syntax.lean ====
section
/-! DEFINITION. The 18 instructions of GPVM as terms, with their inline operands (30_encoding.md
R70 to R73). -/

namespace Sys2Proof

/-- One constructor per row of spec/opcode_table.json. `a1`, `a2` are the inline operand words, "used
whole and as a signed value" (R73). GLOAD has no inline operand and GSTORE has one: "GLOAD and GSTORE
are not symmetric" (R72). -/
inductive Instr where
  /-- R111 `CONST value`: push literal -/
  | const (a1 : Int)
  /-- R112 -/
  | add
  /-- R113 -/
  | sub
  /-- R114 -/
  | mul
  /-- R115 -/
  | lt
  /-- R116 -/
  | eq
  /-- R121 `JMP addr` -/
  | jmp (a1 : Int)
  /-- R122 `JMPT addr` -/
  | jmpt (a1 : Int)
  /-- R123 `JMPF addr` -/
  | jmpf (a1 : Int)
  /-- R131 `LOAD offset` -/
  | load (a1 : Int)
  /-- R132 `STORE offset` -/
  | store (a1 : Int)
  /-- R133 -/
  | gload
  /-- R134 `GSTORE addr` -/
  | gstore (a1 : Int)
  /-- R141 `CALL addr, argc` -/
  | call (a1 a2 : Int)
  /-- R143 -/
  | ret
  /-- R151 -/
  | pop
  /-- R152 -/
  | print
  /-- R153 -/
  | halt
  deriving DecidableEq, Repr

/-- The mnemonic of an instruction. -/
def Instr.mnemonic : Instr → Mnemonic
  | .const _ => .const
  | .add => .add
  | .sub => .sub
  | .mul => .mul
  | .lt => .lt
  | .eq => .eq
  | .jmp _ => .jmp
  | .jmpt _ => .jmpt
  | .jmpf _ => .jmpf
  | .load _ => .load
  | .store _ => .store
  | .gload => .gload
  | .gstore _ => .gstore
  | .call _ _ => .call
  | .ret => .ret
  | .pop => .pop
  | .print => .print
  | .halt => .halt

/-- The inline operands of an instruction, in program order (R71, R72). -/
def Instr.operands : Instr → List Int
  | .const a1 => [a1]
  | .add => []
  | .sub => []
  | .mul => []
  | .lt => []
  | .eq => []
  | .jmp a1 => [a1]
  | .jmpt a1 => [a1]
  | .jmpf a1 => [a1]
  | .load a1 => [a1]
  | .store a1 => [a1]
  | .gload => []
  | .gstore a1 => [a1]
  | .call a1 a2 => [a1, a2]
  | .ret => []
  | .pop => []
  | .print => []
  | .halt => []

end Sys2Proof
end

