-- ==== Sys2Proof/WellFormed.lean ====
section
/-! DEFINITION. When an instruction term can stand in a program: each of its inline operands is a
word. R73: "Decode accepts every word as an operand"; whether the value is usable is checked when the
instruction executes. -/

namespace Sys2Proof

/-- Every inline operand of `i` is a word of width `w` (R8, R71: every field is a whole word). -/
def Instr.wf (w : Nat) (i : Instr) : Bool :=
  i.operands.all fun a => decide (FitsWord w a)

end Sys2Proof
end

