-- ==== Sys2Proof/Decode.lean ====
section
/-! DEFINITION. Decoding of program words and the encoder beside it (30_encoding.md R70 to R77).
Decode "compares all `W` bits" of the opcode word with each opcode number (R75), tells the length
from the opcode word alone (R76), and reads the operands from the slots that follow (R71). -/

namespace Sys2Proof

/-- `OPC(m)`: the opcode number of a mnemonic (R74). -/
def OpcodeMap.number (o : OpcodeMap) : Mnemonic → Int
  | .const => o.const
  | .add => o.add
  | .sub => o.sub
  | .mul => o.mul
  | .lt => o.lt
  | .eq => o.eq
  | .jmp => o.jmp
  | .jmpt => o.jmpt
  | .jmpf => o.jmpf
  | .load => o.load
  | .store => o.store
  | .gload => o.gload
  | .gstore => o.gstore
  | .call => o.call
  | .ret => o.ret
  | .pop => o.pop
  | .print => o.print
  | .halt => o.halt

/-- The 18 mnemonics in table order (R74). -/
def Mnemonic.all : List Mnemonic :=
  [.const, .add, .sub, .mul, .lt, .eq, .jmp, .jmpt, .jmpf, .load, .store, .gload, .gstore, .call,
    .ret, .pop, .print, .halt]

/-- `n(m)`, the number of inline operands (R72): 0 in format F0, 1 in F1, 2 in F2 (R71). -/
def Mnemonic.operandCount : Mnemonic → Nat
  | .const => 1
  | .add => 0
  | .sub => 0
  | .mul => 0
  | .lt => 0
  | .eq => 0
  | .jmp => 1
  | .jmpt => 1
  | .jmpf => 1
  | .load => 1
  | .store => 1
  | .gload => 0
  | .gstore => 1
  | .call => 2
  | .ret => 0
  | .pop => 0
  | .print => 0
  | .halt => 0

/-- `decode(w)` of R75: the mnemonic whose opcode number is the whole word, or nothing. "Decode
depends on the word alone". -/
def decodeOpcode (o : OpcodeMap) (w : Int) : Option Mnemonic :=
  Mnemonic.all.find? fun m => decide (o.number m = w)

/-- The instruction of a mnemonic and the program slots after its opcode word, with the slots left
over; nothing if an operand slot is missing (R71, R96). -/
def Mnemonic.withOperands : Mnemonic → List Int → Option (Instr × List Int)
  | .const, a1 :: rest => some (.const a1, rest)
  | .const, [] => none
  | .add, rest => some (.add, rest)
  | .sub, rest => some (.sub, rest)
  | .mul, rest => some (.mul, rest)
  | .lt, rest => some (.lt, rest)
  | .eq, rest => some (.eq, rest)
  | .jmp, a1 :: rest => some (.jmp a1, rest)
  | .jmp, [] => none
  | .jmpt, a1 :: rest => some (.jmpt a1, rest)
  | .jmpt, [] => none
  | .jmpf, a1 :: rest => some (.jmpf a1, rest)
  | .jmpf, [] => none
  | .load, a1 :: rest => some (.load a1, rest)
  | .load, [] => none
  | .store, a1 :: rest => some (.store a1, rest)
  | .store, [] => none
  | .gload, rest => some (.gload, rest)
  | .gstore, a1 :: rest => some (.gstore a1, rest)
  | .gstore, [] => none
  | .call, a1 :: a2 :: rest => some (.call a1 a2, rest)
  | .call, [_] => none
  | .call, [] => none
  | .ret, rest => some (.ret, rest)
  | .pop, rest => some (.pop, rest)
  | .print, rest => some (.print, rest)
  | .halt, rest => some (.halt, rest)

/-- What decoding the words from some program index on gives. -/
inductive Decoded where
  /-- an instruction, and the program words after it -/
  | ok (i : Instr) (rest : List Int)
  /-- the opcode word is no opcode number (R77) -/
  | invalidOpcode
  /-- the program ends before the instruction's last operand (R96) -/
  | truncated
  /-- there is no opcode word: the index is the end of the program (R94) -/
  | endOfProgram
  deriving DecidableEq, Repr

/-- Decode the words of the program from an index on. The opcode word is decoded first and the
operands are fetched only if it is valid (R76, R96, R166). -/
def decodeWords (o : OpcodeMap) : List Int → Decoded
  | [] => .endOfProgram
  | w :: slots =>
    match decodeOpcode o w with
    | none => .invalidOpcode
    | some m =>
      match m.withOperands slots with
      | none => .truncated
      | some (i, rest) => .ok i rest

/-- The words of an instruction: the opcode word, then its inline operands in order (R70, R71). -/
def encode (o : OpcodeMap) (i : Instr) : List Int :=
  o.number i.mnemonic :: i.operands

/-- The first `count` words of width `w` of a bit string, its least significant bits first. -/
def wordsOfBits (w : Nat) : Nat → Nat → List Int
  | 0, _ => []
  | count + 1, bits => Machine.wordOfBits w bits :: wordsOfBits w count (bits / 2 ^ w)

/-- Words of width `w` laid one after another, the first in the least significant bits. -/
def bitsOfWords (w : Nat) : List Int → Nat
  | [] => 0
  | z :: rest => Machine.bitsOfWord w z + 2 ^ w * bitsOfWords w rest

/-- The length in words of the longest instruction, CALL (R70, R71). -/
def maxInstrWords : Nat := 3

/-- The bits of an instruction under the default parameters, numbered as spec/opcode_table.json
numbers them: bit 0 is the least significant bit of the opcode word (R81). -/
def encodeTableWord (i : Instr) : Nat :=
  bitsOfWords Config.defaultW (encode Config.defaultOpc i)

/-- The instruction of a decoding, if there is one. -/
def Decoded.instr : Decoded → Option Instr
  | .ok i _ => some i
  | .invalidOpcode => none
  | .truncated => none
  | .endOfProgram => none

/-- The instruction the decoder reads, under the default parameters, from an instruction whose bits
are `w`, numbered as in spec/opcode_table.json; the bits from `nbits` on are 0. -/
def decodeTableWord (nbits w : Nat) : Option Instr :=
  (decodeWords Config.defaultOpc
    (wordsOfBits Config.defaultW maxInstrWords (w % 2 ^ nbits))).instr

end Sys2Proof
end

