-- ==== Sys2Proof/Machine/Flags.lean ====
section
/-! DEFINITION. "There are no flags and no condition codes" (10_state.md R33): no instruction sets
one. LT and EQ deliver their result as a word 1 or 0 on the stack, and JMPT and JMPF test a popped
word; those words and tests are here. -/

namespace Sys2Proof.Machine

/-- The word 1 for true, 0 for false (R115, R116). -/
def boolWord (b : Bool) : Int := if b then 1 else 0

/-- `1 if a < b else 0`, a comparison of the two signed values (R115). -/
def ltWord (a b : Int) : Int := boolWord (decide (a < b))

/-- `1 if a == b else 0`, all bits equal (R116). -/
def eqWord (a b : Int) : Int := boolWord (decide (a = b))

/-- JMPT's test: equality with 1, not "not zero" (R122, 90_conflicts.md C3). -/
def testsTrue (v : Int) : Bool := decide (v = 1)

/-- JMPF's test: equality with 0 (R123, 90_conflicts.md C3). -/
def testsFalse (v : Int) : Bool := decide (v = 0)

end Sys2Proof.Machine
end

