-- ==== Sys2Proof/Machine/State.lean ====
section
/-! DEFINITION. The state of one machine instance (10_state.md R20 to R35), the ways a step can stop,
and the machine right after reset. -/

namespace Sys2Proof.Machine

/-- The state of the execution engine (R27). The 2-bit encoding is `Fsm.code` in
Machine/HostView.lean. -/
inductive Fsm where
  | ready | running | halted | faulted
  deriving DecidableEq, Repr

/-- The `cause` register: why the engine is in a terminal state (R28). The 4-bit encoding is
`Cause.code` in Machine/HostView.lean. Codes 9 to 15 "are never produced" (R28, U15). -/
inductive Cause where
  /-- reset without configuration error -/
  | none
  /-- a HALT instruction executed (R153) -/
  | haltInstruction
  /-- a step began with `pc = N` (R94) -/
  | endOfProgram
  /-- a step began with `cancel` asserted (R93) -/
  | cancelled
  /-- the fetched opcode word is no defined opcode (R161) -/
  | invalidOpcode
  /-- a push was attempted with the stack full (R162) -/
  | stackOverflow
  /-- a pop was attempted with too few values on the stack (R163) -/
  | stackUnderflow
  /-- a pc target, a stack or locals index, a frame or an operand fetch is out of range (R164) -/
  | outOfBoundsJump
  /-- reset with `START_PC` outside `[0, N)` (R168) -/
  | configurationError
  deriving DecidableEq, Repr

/-- A word-addressed memory (R50 to R53): (index, word) pairs in one canonical form, indices strictly
rising and no entry equal to 0, what an unlisted slot reads as. 0 is the reset value of every `LOCALS`
slot (R40); in `STACK` an unlisted slot is either a live slot that holds 0 or a slot never written,
which no rule reads (R29, D23, log entry 4). There are no bytes in this machine (R51). -/
abbrev Memory := List (Nat × Int)

/-- What the host does at one step (R38, R201). A step reads one of these. -/
inductive HostInput where
  /-- the two inputs of `Step` (R95): `run_en` and `cancel` -/
  | clock (runEn cancel : Bool)
  /-- `rst` with the parameters as they are (R191) -/
  | rst
  /-- the host supplies new parameters (a program, a start index, sizes) and applies `rst` with them
  stable (R190, R193, R201 row "construct") -/
  | construct (p : Params)
  deriving DecidableEq, Repr

/-- The state of one machine instance: the tuple of R20, with the parameters of the instance (R6) and
the inputs the host applies at the coming steps (R38) as plain data beside it. -/
structure State where
  /-- the parameters of the instance: `PROG`, `N`, `START_PC`, `LOCALS_SIZE`, `STACK_CAP`, `W`, `OPC`
  (R6; not state in R20's sense: only a reset replaces them) -/
  params : Params
  /-- program counter (R22) -/
  pc : Int
  /-- stack pointer: the index of the top of stack, or −1 when it is empty (R24) -/
  sp : Int
  /-- frame pointer: "it may hold any word" (R26) -/
  fp : Int
  /-- the engine's state (R27) -/
  fsm : Fsm
  /-- the cause register (R28) -/
  cause : Cause
  /-- the operand stack memory (R29) -/
  stack : Memory
  /-- the locals store, the local/global register file (R30) -/
  locals : Memory
  /-- the output trace: the words PRINT has emitted since reset, oldest first (R32) -/
  out : List Int
  /-- THE MODEL'S OWN field: what the host does at the coming steps, next first; past its end the
  host holds `run_en = 1`, `cancel = 0`. DESIGN CHOICE, log entry 2 -/
  inputs : List HostInput
  deriving DecidableEq, Repr

/-- How a step can stop outside the machine's own faults. The machine's five faults (R160) are NOT
here: they are next states with `fsm = Faulted`. -/
inductive Fault where
  /-- Raised by the engine's fetch at a pc outside `[0, N]`. 40_fetch_dispatch.md R94: "`pc > N` and
  `pc < 0` cannot occur here"; the access does not exist (R55). No run from a reset reaches it.
  Safe: the model stops. Log entry 6. -/
  | fetchOutsideProgram
  deriving DecidableEq, Repr

/-- What the model refuses. -/
inductive Refusal where
  /-- Raised by an arm of `exec` for an instruction without a meaning; no arm is such. Safe. -/
  | notModelled (mnemonic : String)
  /-- Raised by a `construct` input whose parameters break R7: R201, "A liberty the host does not
  have is not a move of the model". Safe. Log entry 7. -/
  | parametersOutOfRange
  /-- Raised by a `construct` input that changes a parameter between reset and a terminal state:
  R197, U12, "the model's host has no such move". Safe. Log entry 7. -/
  | parametersChangedDuringRun
  deriving DecidableEq, Repr

/-- The outcome of a step or of an instruction. -/
abbrev Result := Host.Outcome State Fault Refusal

/-- The machine right after reset when no host has supplied a program: the reset values of R40 under
the parameters `Config.unloaded`. The program is empty, so by R192 reset ends in `Faulted` with cause
`ConfigurationError` (95_test_vectors.md V163); a `construct` input loads a program. Log entry 3. -/
def State.reset : State where
  params := Config.unloaded
  pc := Config.unloaded.startPc
  sp := Config.emptySp
  fp := 0
  fsm := .faulted
  cause := .configurationError
  stack := []
  locals := []
  out := []
  inputs := []

end Sys2Proof.Machine
end

