-- ==== Sys2Proof/Machine/Ops.lean ====
section
/-! DEFINITION. The named operations over memory and registers, raising a fault, and reset. -/

namespace Sys2Proof.Machine

/-- The canonical form of a memory: indices strictly rising, no entry 0. -/
abbrev Memory.wf (m : Memory) : Prop :=
  m.Pairwise (fun c d => c.1 < d.1) ∧ ∀ c ∈ m, c.2 ≠ 0

/-- The word at index `a`; an unlisted slot reads as 0 (R40, R53: a read has no side effect). -/
def Memory.read : Memory → Nat → Int
  | [], _ => 0
  | (k, v) :: m, a => if k = a then v else Memory.read m a

/-- The memory without its entry at `a`. -/
def Memory.erase (m : Memory) (a : Nat) : Memory := m.filter fun c => decide (c.1 ≠ a)

/-- Put an entry in its place by index. -/
def Memory.insert : Memory → Nat → Int → Memory
  | [], a, v => [(a, v)]
  | (k, x) :: m, a, v => if a < k then (a, v) :: (k, x) :: m else (k, x) :: Memory.insert m a v

/-- Write one whole word (R53). Writing 0, what an unlisted slot reads as, removes the entry. -/
def Memory.write (m : Memory) (a : Nat) (v : Int) : Memory :=
  if v = 0 then m.erase a else (m.erase a).insert a v

/-- `N`, the program length, as an integer (R9, R10). -/
def State.progLen (s : State) : Int := s.params.prog.length

/-- `STACK[i]` (R10). Its callers have checked `0 ≤ i`. -/
def State.stackAt (s : State) (i : Int) : Int := s.stack.read i.toNat

/-- `LOCALS[i]` (R10). Its callers have checked `0 ≤ i`. -/
def State.localsAt (s : State) (i : Int) : Int := s.locals.read i.toNat

/-- `STACK[i] <- v` (R10). -/
def State.setStack (s : State) (i : Int) (v : Int) : State :=
  { s with stack := s.stack.write i.toNat v }

/-- `LOCALS[i] <- v` (R10). -/
def State.setLocals (s : State) (i : Int) (v : Int) : State :=
  { s with locals := s.locals.write i.toNat v }

/-- `pc <- t` (R10). -/
def State.setPc (s : State) (t : Int) : State := { s with pc := t }

/-- `sp <- v` (R10). -/
def State.setSp (s : State) (v : Int) : State := { s with sp := v }

/-- `fp <- v` (R10). -/
def State.setFp (s : State) (v : Int) : State := { s with fp := v }

/-- `out <- out ++ [v]` (R10, R32). -/
def State.emit (s : State) (v : Int) : State := { s with out := s.out ++ [v] }

/-- The sequential advance past an instruction of `n` words, `pc <- P + n` (R95, R96). -/
def State.advance (s : State) (n : Nat) : State := s.setPc (s.pc + n)

/-- The writes of `Push(v)`: `STACK[sp+1] <- v; sp <- sp+1` (R91). -/
def State.push (s : State) (v : Int) : State := (s.setStack (s.sp + 1) v).setSp (s.sp + 1)

/-- The write of `Pop()` to sp: `sp <- sp−1`; the popped slot becomes dead and keeps its old content,
which nothing reads (R92, R29). -/
def State.drop (s : State) : State := s.setSp (s.sp - 1)

/-- `fsm <- Running`, what a step with `run_en = 1` does before anything else (R102). -/
def State.start (s : State) : State := { s with fsm := .running }

/-- `fsm <- Halted; cause <- c`: the graceful end of a run (R169). -/
def State.stop (s : State) (c : Cause) : State := { s with fsm := .halted, cause := c }

/-- Taking a fault, `raise X` (R165, R10): every write of the instruction is discarded (`s` is the
state at the start of the instruction), then `fsm <- Faulted; cause <- X`. "Nothing else changes ...
there is no handler, no vector table and no vector base register". There is no return from a fault
(R171): `Faulted` is left by reset only. -/
def raise (s : State) (x : Cause) : Result := .next { s with fsm := .faulted, cause := x }

/-- `require c else X` (R10): go on with `k` if `c` holds, else `raise X` in the state at the start of
the instruction. Checks written one after another are made in that order (R166). -/
def require (c : Prop) [Decidable c] (x : Cause) (s : State) (k : Result) : Result :=
  if c then k else raise s x

/-- The guard of `k` pushes, `S + k ≤ STACK_CAP − 1`, else StackOverflow (R91). -/
def requireRoom (k : Nat) (s : State) (next : Result) : Result :=
  require (s.sp + k ≤ (s.params.stackCap : Int) - 1) .stackOverflow s next

/-- The guard of `k` pops, `S ≥ k − 1`, else StackUnderflow (R92). -/
def requireDepth (k : Nat) (s : State) (next : Result) : Result :=
  require ((k : Int) - 1 ≤ s.sp) .stackUnderflow s next

/-- `Halted` and `Faulted` are the terminal states (R99). -/
def State.terminal (s : State) : Bool :=
  match s.fsm with
  | .ready => false
  | .running => false
  | .halted => true
  | .faulted => true

/-- Reset, the document's `Construct` (R190, R40, R192): every piece of state at its reset value,
`Ready` if `0 ≤ START_PC < N`, else `Faulted` with cause ConfigurationError. The result depends on
the parameters alone (R191); `inputs` is what the host goes on to do. -/
def construct (p : Params) (inputs : List HostInput) : State :=
  if 0 ≤ p.startPc ∧ p.startPc < p.prog.length then
    { params := p, pc := p.startPc, sp := Config.emptySp, fp := 0, fsm := .ready, cause := .none,
      stack := [], locals := [], out := [], inputs := inputs }
  else
    { params := p, pc := p.startPc, sp := Config.emptySp, fp := 0, fsm := .faulted,
      cause := .configurationError, stack := [], locals := [], out := [], inputs := inputs }

end Sys2Proof.Machine
end

