-- ==== Sys2Proof/Machine/Operands.lean ====
section
/-! DEFINITION. The operand forms: how each instruction finds the index it uses, and the range each
index must lie in (20_memory.md R55, 43_load_store.md R130, 44_call_return.md R142). All index sums
are exact integers (R9). -/

namespace Sys2Proof.Machine

/-- `fp + a1`, the frame-relative index of LOAD and STORE: an exact sum, not wrapped (R9, R130). -/
def State.frameIndex (s : State) (a1 : Int) : Int := s.fp + a1

/-- A branch or call target: `0 ≤ t < N` (R55, R120). -/
abbrev State.legalTarget (s : State) (t : Int) : Prop := 0 ≤ t ∧ t < s.progLen

/-- A return address: `0 ≤ t ≤ N`, `N` included (R55, R143 c6). -/
abbrev State.legalReturn (s : State) (t : Int) : Prop := 0 ≤ t ∧ t ≤ s.progLen

/-- A live stack slot, `0 ≤ i ≤ sp` (R29, R131). -/
abbrev State.liveSlot (s : State) (i : Int) : Prop := 0 ≤ i ∧ i ≤ s.sp

/-- A slot of the locals store, `0 ≤ i < LOCALS_SIZE` (R30, R55). -/
abbrev State.localsSlot (s : State) (i : Int) : Prop := 0 ≤ i ∧ i < (s.params.localsSize : Int)

/-- The top of the stack, `STACK[S]`. -/
def State.top (s : State) : Int := s.stackAt s.sp

/-- The word below the top, `STACK[S−1]`. -/
def State.below (s : State) : Int := s.stackAt (s.sp - 1)

/-- The return pc of the frame, `STACK[F]` (R142). -/
def State.frameReturnPc (s : State) : Int := s.stackAt s.fp

/-- The caller's fp in the frame, `STACK[F−1]` (R142). -/
def State.frameSavedFp (s : State) : Int := s.stackAt (s.fp - 1)

/-- The argument count in the frame, `STACK[F−2]` (R142). -/
def State.frameArgc (s : State) : Int := s.stackAt (s.fp - 2)

/-- The slot RET leaves the return value in, `F − 2 − argc` (R143). -/
def State.returnSlot (s : State) : Int := s.fp - 2 - s.frameArgc

end Sys2Proof.Machine
end

