-- ==== Sys2Proof/Machine/Branch.lean ====
section
/-! DEFINITION. JMP, JMPT, JMPF (42_branches.md). -/

namespace Sys2Proof.Machine

/-- The shape of JMPT and JMPF: the tested word is popped whether or not the jump is taken; the
target is checked only when it is taken (R120, R122, R123). -/
def branchIf (test : Int → Bool) (a1 : Int) (s : State) : Result :=
  requireDepth 1 s
    (if test s.top then
      require (s.legalTarget a1) .outOfBoundsJump s (.next (s.drop.setPc a1))
    else .next (s.drop.advance 2))

/-- JMP (R121). -/
def execJmp (a1 : Int) (s : State) : Result :=
  require (s.legalTarget a1) .outOfBoundsJump s (.next (s.setPc a1))

/-- JMPT (R122). -/
def execJmpt (a1 : Int) (s : State) : Result := branchIf testsTrue a1 s

/-- JMPF (R123). -/
def execJmpf (a1 : Int) (s : State) : Result := branchIf testsFalse a1 s

end Sys2Proof.Machine
end

