-- ==== Sys2Proof/Machine/CallReturn.lean ====
section
/-! DEFINITION. CALL and RET (44_call_return.md). -/

namespace Sys2Proof.Machine

/-- CALL (R141): pushes argc, the caller's fp and the return pc `P + 3`, sets fp to the new top and
jumps. The target is checked before the room; `argc` is not checked (D14). -/
def execCall (a1 a2 : Int) (s : State) : Result :=
  require (s.legalTarget a1) .outOfBoundsJump s
    (requireRoom 3 s
      (.next (((((s.push a2).push s.fp).push (s.pc + 3)).setFp (s.sp + 3)).setPc a1)))

/-- RET (R143), with its checks c1 to c6 in that order. All reads are of the state at the start of the
instruction (R58). -/
def execRet (s : State) : Result :=
  requireDepth 1 s -- c1
    (require (2 ≤ s.fp) .stackUnderflow s -- c2
      (require (s.fp ≤ s.sp - 1) .outOfBoundsJump s -- c3
        (require (0 ≤ s.frameArgc) .outOfBoundsJump s -- c4
          (require (-1 ≤ s.fp - 3 - s.frameArgc) .stackUnderflow s -- c5
            (require (s.legalReturn s.frameReturnPc) .outOfBoundsJump s -- c6
              (.next ((((s.setStack s.returnSlot s.top).setSp s.returnSlot).setFp
                s.frameSavedFp).setPc s.frameReturnPc)))))))

end Sys2Proof.Machine
end

