-- ==== Sys2Proof/Machine/ConstArith.lean ====
section
/-! DEFINITION. CONST, ADD, SUB, MUL, LT, EQ (41_const_arith_compare.md). -/

namespace Sys2Proof.Machine

/-- The shape of the five binary instructions: `f` of the lower and the upper operand replaces both
(R112 to R116). -/
def binaryOp (f : Int → Int → Int) (s : State) : Result :=
  requireDepth 2 s
    (.next (((s.setStack (s.sp - 1) (f s.below s.top)).setSp (s.sp - 1)).advance 1))

/-- CONST (R111). -/
def execConst (a1 : Int) (s : State) : Result :=
  requireRoom 1 s (.next ((s.push a1).advance 2))

/-- ADD (R112): `b` on top, `a` below it. -/
def execAdd (s : State) : Result := binaryOp (fun a b => addWord s.params.w a b) s

/-- SUB (R113): "the operand pushed first is the left operand". -/
def execSub (s : State) : Result := binaryOp (fun a b => subWord s.params.w a b) s

/-- MUL (R114). -/
def execMul (s : State) : Result := binaryOp (fun a b => mulWord s.params.w a b) s

/-- LT (R115): 1 if the lower word is less than the upper one. -/
def execLt (s : State) : Result := binaryOp (fun a b => ltWord a b) s

/-- EQ (R116): here `a` is the top word and `b` the word below it (90_conflicts.md C11). -/
def execEq (s : State) : Result := binaryOp (fun b a => eqWord a b) s

end Sys2Proof.Machine
end

