-- ==== Sys2Proof/Machine/LoadStore.lean ====
section
/-! DEFINITION. LOAD, STORE, GLOAD, GSTORE (43_load_store.md). "They are not symmetric and must not be
made symmetric" (R130): LOAD reads the operand stack, STORE writes the locals store. -/

namespace Sys2Proof.Machine

/-- The shape of STORE and GSTORE: pop a word and write it to the locals store at index `i`
(R132, R134). -/
def storeLocals (i : Int) (s : State) : Result :=
  requireDepth 1 s
    (require (s.localsSlot i) .outOfBoundsJump s
      (.next ((s.setLocals i s.top).drop.advance 2)))

/-- LOAD (R131): the index is checked before the room for the push. -/
def execLoad (a1 : Int) (s : State) : Result :=
  require (s.liveSlot (s.frameIndex a1)) .outOfBoundsJump s
    (requireRoom 1 s (.next ((s.push (s.stackAt (s.frameIndex a1))).advance 2)))

/-- STORE (R132): frame-relative, into the locals store. -/
def execStore (a1 : Int) (s : State) : Result := storeLocals (s.frameIndex a1) s

/-- GLOAD (R133): the popped word is the index; sp is unchanged, one pop and one push. -/
def execGload (s : State) : Result :=
  requireDepth 1 s
    (require (s.localsSlot s.top) .outOfBoundsJump s
      (.next ((s.setStack s.sp (s.localsAt s.top)).advance 1)))

/-- GSTORE (R134): the inline operand is the index. -/
def execGstore (a1 : Int) (s : State) : Result := storeLocals a1 s

end Sys2Proof.Machine
end

