-- ==== Sys2Proof/Machine/System.lean ====
section
/-! DEFINITION. POP, PRINT, HALT (45_pop_print_halt.md). -/

namespace Sys2Proof.Machine

/-- POP (R151). -/
def execPop (s : State) : Result := requireDepth 1 s (.next (s.drop.advance 1))

/-- PRINT (R152): what leaves the block is the word itself (D20). -/
def execPrint (s : State) : Result :=
  requireDepth 1 s (.next ((s.emit s.top).drop.advance 1))

/-- HALT (R153): pc is left after the HALT word (D17). HALT cannot fault. -/
def execHalt (s : State) : Result := .next ((s.stop .haltInstruction).advance 1)

end Sys2Proof.Machine
end

