-- ==== Sys2Proof/Machine/Dispatch.lean ====
section
/-! DEFINITION. The 18 arms of the dispatch (40_fetch_dispatch.md R97): "There is no default arm". -/

namespace Sys2Proof.Machine

def exec (i : Instr) (s : State) : Host.Outcome State Fault Refusal :=
  match i with
  | .const a1 => Sys2Proof.Machine.execConst a1 s
  | .add => Sys2Proof.Machine.execAdd s
  | .sub => Sys2Proof.Machine.execSub s
  | .mul => Sys2Proof.Machine.execMul s
  | .lt => Sys2Proof.Machine.execLt s
  | .eq => Sys2Proof.Machine.execEq s
  | .jmp a1 => Sys2Proof.Machine.execJmp a1 s
  | .jmpt a1 => Sys2Proof.Machine.execJmpt a1 s
  | .jmpf a1 => Sys2Proof.Machine.execJmpf a1 s
  | .load a1 => Sys2Proof.Machine.execLoad a1 s
  | .store a1 => Sys2Proof.Machine.execStore a1 s
  | .gload => Sys2Proof.Machine.execGload s
  | .gstore a1 => Sys2Proof.Machine.execGstore a1 s
  | .call a1 a2 => Sys2Proof.Machine.execCall a1 a2 s
  | .ret => Sys2Proof.Machine.execRet s
  | .pop => Sys2Proof.Machine.execPop s
  | .print => Sys2Proof.Machine.execPrint s
  | .halt => Sys2Proof.Machine.execHalt s

end Sys2Proof.Machine
end

