-- ==== Sys2Proof/Machine/Engine.lean ====
section
/-! DEFINITION. The execution engine (40_fetch_dispatch.md): fetch, the Step function, and the host's
moves at one step (70_reset_and_hazards.md R201). -/

namespace Sys2Proof.Machine

/-- The opcode word at pc and its operands, decoded (R95, R96). Its callers have checked
`0 ≤ pc ≤ N`. -/
def fetch (s : State) : Decoded := decodeWords s.params.opc (s.params.prog.drop s.pc.toNat)

/-- Execute what the fetch found, in the state at the start of the instruction (R95): an undefined
word raises InvalidOpcode (R161), a truncated instruction raises OutOfBoundsJump (R96), the end of
the program is an implicit halt (R94), and otherwise the rule of the instruction runs (R97). -/
def runFetched (d : Decoded) (s : State) : Result :=
  match d with
  | .endOfProgram => .next (s.stop .endOfProgram)
  | .invalidOpcode => raise s .invalidOpcode
  | .truncated => raise s .outOfBoundsJump
  | .ok i _ => exec i s

/-- `Step(run_en, cancel)` (R95). In a terminal state nothing changes (R99); with `run_en = 0` the
engine holds (R101); otherwise `fsm <- Running` (R102), then `cancel` is looked at (R93), then the
end of the program (R94), then one instruction is fetched, decoded and executed. -/
def engineStep (runEn cancel : Bool) (s : State) : Result :=
  if s.terminal then .next s
  else if runEn = false then .next s
  else if cancel then .next (s.start.stop .cancelled)
  else if s.pc < 0 ∨ s.progLen < s.pc then .fault .fetchOutsideProgram
  else runFetched (fetch s) s.start

/-- What the host does at this step: the next of its inputs, and past their end `run_en = 1`,
`cancel = 0` (log entry 2). -/
def State.nextInput (s : State) : HostInput :=
  match s.inputs with
  | [] => .clock true false
  | x :: _ => x

/-- The state with this step's input taken. -/
def State.consume (s : State) : State := { s with inputs := s.inputs.tail }

/-- The host's `construct` (R190, R201): parameters within R7, changed only in a terminal state
(R197), give the reset machine; anything else is no move of the host. Log entries 7 and 8. -/
def hostConstruct (p : Params) (s : State) : Result :=
  if ¬ p.valid then .refused .parametersOutOfRange
  else if s.terminal = false ∧ p ≠ s.params then .refused .parametersChangedDuringRun
  else .next (construct p s.inputs)

/-- One step under one host input. -/
def stepWith (x : HostInput) (s : State) : Result :=
  match x with
  | .clock runEn cancel => engineStep runEn cancel s
  | .rst => .next (construct s.params s.inputs)
  | .construct p => hostConstruct p s

/-- The words `ws` written over the program from index `start` on; slots between the old end and
`start` are 0. Used only to stand for the host's loading of a program (log entry 5). -/
def overwriteProgram (prog : List Int) (start : Nat) (ws : List Int) : List Int :=
  (prog ++ List.replicate (start - prog.length) 0).take start ++ ws ++ prog.drop (start + ws.length)

/-- Where the next fetch reads: pc if the engine can run from it, else 0. -/
def State.fetchIndex (s : State) : Nat := if s.terminal then 0 else s.pc.toNat

/-- The words `ws` placed where the next step fetches, with all that the fetch needs: an engine that is
not in a terminal state, pc at those words, and a host that runs (log entry 5). -/
def placeInstruction (ws : List Int) (s : State) : State :=
  { s with
    params := { s.params with prog := overwriteProgram s.params.prog s.fetchIndex ws }
    pc := s.fetchIndex
    fsm := if s.terminal then .ready else s.fsm
    cause := if s.terminal then .none else s.cause
    inputs := if s.nextInput = .clock true false then s.inputs
      else .clock true false :: s.inputs }

end Sys2Proof.Machine
end

