-- ==== Sys2Proof/Machine/Step.lean ====
section
/-! DEFINITION. One step of the machine: the host's next input is taken and acted on
(40_fetch_dispatch.md R95, 70_reset_and_hazards.md R201). -/

namespace Sys2Proof.Machine

/-- One step: take the host's next input and act on it. -/
def step (s : State) : Host.Outcome State Fault Refusal := stepWith s.nextInput s.consume

/-- `s` with an instruction's bits stored where `step` fetches its next instruction; the bits from
`nbits` on are 0, up to the longest instruction. Stands for the host's loading of a program
(log entry 5). -/
def State.withFetchWord (s : State) (nbits w : Nat) : State :=
  placeInstruction (wordsOfBits s.params.w maxInstrWords (w % 2 ^ nbits)) s

end Sys2Proof.Machine
end

