-- ==== Sys2Proof/Machine/HostView.lean ====
section
/-! DEFINITION. What the host reads of the machine (10_state.md R27, R28, R38, R39;
70_reset_and_hazards.md R200). Reading changes nothing: these are functions of the state. A read
outside what a port reaches answers nothing (log entry 10). -/

namespace Sys2Proof.Machine

/-- The 2-bit encoding of `fsm` on the status port (R27, D15). -/
def Fsm.code : Fsm → BitVec 2
  | .ready => 0
  | .running => 1
  | .halted => 2
  | .faulted => 3

/-- The 4-bit encoding of `cause` on the status port (R28, D15). -/
def Cause.code : Cause → BitVec 4
  | .none => 0
  | .haltInstruction => 1
  | .endOfProgram => 2
  | .cancelled => 3
  | .invalidOpcode => 4
  | .stackOverflow => 5
  | .stackUnderflow => 6
  | .outOfBoundsJump => 7
  | .configurationError => 8

/-- The fault report `(cause, pc, sp, fp)` (R39). -/
structure FaultReport where
  cause : Cause
  pc : Int
  sp : Int
  fp : Int
  deriving DecidableEq, Repr

/-- The report the host reads when `fsm = Faulted` (R39, R165). -/
def State.faultReport (s : State) : Option FaultReport :=
  match s.fsm with
  | .ready => none
  | .running => none
  | .halted => none
  | .faulted => some { cause := s.cause, pc := s.pc, sp := s.sp, fp := s.fp }

/-- The number of values on the stack, `sp + 1` (R24; "depth" of R36). -/
def State.depth (s : State) : Nat := (s.sp + 1).toNat

/-- The live slots `STACK[0..sp]`, slot 0 first (R200). -/
def State.liveStack (s : State) : List Int := (List.range s.depth).map s.stack.read

/-- The whole locals store, slot 0 first (R200). -/
def State.localsList (s : State) : List Int :=
  (List.range s.params.localsSize).map s.locals.read

/-- The program memory's read port: `PROG[a]` for `0 ≤ a < N` (R38, R50). -/
def State.progPort (s : State) (a : Int) : Option Int :=
  if 0 ≤ a then s.params.prog[a.toNat]? else none

/-- The debug port onto `STACK`: a live slot's word (R38, R29). -/
def State.dbgStack (s : State) (a : Int) : Option Int :=
  if s.liveSlot a then some (s.stackAt a) else none

/-- The debug port onto `LOCALS` (R38). -/
def State.dbgLocals (s : State) (a : Int) : Option Int :=
  if s.localsSlot a then some (s.localsAt a) else none

/-- The pulse of `out_valid` with its `out_data` on a step from `s` to `t`: the word that step
appended to the trace, if any (R32, R38). -/
def outPulse (s t : State) : Option Int := t.out[s.out.length]?

end Sys2Proof.Machine
end

