-- ==== Sys2Proof/Safety.lean ====
section
/-! DEFINITION. The terms in which claims about the machine are stated: the invariants of
10_state.md (R23, R25, R28), the fault matrix of 60_exceptions.md (R166, R174), and what cannot be
observed (R29, R35). -/

namespace Sys2Proof.Machine

/-- R23: `0 ≤ pc ≤ N` unless reset itself ended in a configuration error. -/
abbrev PcInProgram (s : State) : Prop :=
  (s.fsm = .faulted ∧ s.cause = .configurationError) ∨ s.legalReturn s.pc

/-- R25: `−1 ≤ sp ≤ STACK_CAP − 1`. -/
abbrev SpInStack (s : State) : Prop := -1 ≤ s.sp ∧ s.sp ≤ (s.params.stackCap : Int) - 1

/-- R28: which causes go with which engine state. -/
abbrev CauseAgrees (s : State) : Prop :=
  match s.cause with
  | .none => s.terminal = false
  | .haltInstruction => s.fsm = .halted
  | .endOfProgram => s.fsm = .halted
  | .cancelled => s.fsm = .halted
  | .invalidOpcode => s.fsm = .faulted
  | .stackOverflow => s.fsm = .faulted
  | .stackUnderflow => s.fsm = .faulted
  | .outOfBoundsJump => s.fsm = .faulted
  | .configurationError => s.fsm = .faulted

/-- A memory of `size` slots: canonical, with no entry outside it (R29, R30). -/
abbrev Memory.within (m : Memory) (size : Nat) : Prop := m.wf ∧ ∀ c ∈ m, c.1 < size

/-- Every register and every slot holds a word of width `W` (R8). -/
abbrev WordsFit (s : State) : Prop :=
  FitsWord s.params.w s.pc ∧ FitsWord s.params.w s.sp ∧ FitsWord s.params.w s.fp ∧
  (∀ c ∈ s.stack, FitsWord s.params.w c.2) ∧ (∀ c ∈ s.locals, FitsWord s.params.w c.2) ∧
  ∀ v ∈ s.out, FitsWord s.params.w v

/-- The invariant of the machine: what the hardware's registers and memories can hold. -/
structure Inv (s : State) : Prop where
  /-- R7 -/
  params : s.params.valid
  /-- R23 -/
  pc : PcInProgram s
  /-- R25 -/
  sp : SpInStack s
  /-- R28 -/
  cause : CauseAgrees s
  /-- R29 -/
  stack : s.stack.within s.params.stackCap
  /-- R30 -/
  locals : s.locals.within s.params.localsSize
  /-- R8 -/
  words : WordsFit s

/-- The engine is about to fetch an opcode word: it is not in a terminal state, the host gives
`run_en = 1`, `cancel = 0`, and `0 ≤ pc < N` (R95). -/
abbrev Fetches (s : State) : Prop :=
  s.terminal = false ∧ s.nextInput = .clock true false ∧ s.legalTarget s.pc

/-- The state a fault leaves: only `fsm` and `cause` differ (R165). -/
def State.faultedWith (s : State) (c : Cause) : State := { s with fsm := .faulted, cause := c }

/-- The truncated-instruction case of a mnemonic (R96, R164): at a fetch whose opcode word is its
opcode number and whose last operand would lie past the end of the program, the step raises
OutOfBoundsJump. -/
def TruncationFaults (m : Mnemonic) : Prop :=
  ∀ s : State, s.params.valid → Fetches s → s.progPort s.pc = some (s.params.opc.number m) →
    s.progLen - 1 < s.pc + m.operandCount → step s = .next (s.consume.faultedWith .outOfBoundsJump)

/-- The checks of an instruction after decode and operand fetch, in the order R166 makes them, each
with the condition under which it fails, as the matrix of R174 writes it. -/
def faultMatrix (i : Instr) (s : State) : List (Bool × Cause) :=
  let empty : Bool × Cause := (decide (s.sp = -1), .stackUnderflow)
  let full : Bool × Cause := (decide (s.sp = (s.params.stackCap : Int) - 1), .stackOverflow)
  let fewerThanTwo : Bool × Cause := (decide (s.sp ≤ 0), .stackUnderflow)
  let outside (x size : Int) : Bool := decide (x < 0) || decide (size ≤ x)
  let badLocal (x : Int) : Bool × Cause := (outside x s.params.localsSize, .outOfBoundsJump)
  match i with
  | .const _ => [full]
  | .add => [fewerThanTwo]
  | .sub => [fewerThanTwo]
  | .mul => [fewerThanTwo]
  | .lt => [fewerThanTwo]
  | .eq => [fewerThanTwo]
  | .jmp a1 => [(outside a1 s.progLen, .outOfBoundsJump)]
  | .jmpt a1 => [empty, (decide (s.top = 1) && outside a1 s.progLen, .outOfBoundsJump)]
  | .jmpf a1 => [empty, (decide (s.top = 0) && outside a1 s.progLen, .outOfBoundsJump)]
  | .load a1 => [(outside (s.fp + a1) (s.sp + 1), .outOfBoundsJump), full]
  | .store a1 => [empty, badLocal (s.fp + a1)]
  | .gload => [empty, badLocal s.top]
  | .gstore a1 => [empty, badLocal a1]
  | .call a1 _ => [(outside a1 s.progLen, .outOfBoundsJump),
      (decide ((s.params.stackCap : Int) - 1 < s.sp + 3), .stackOverflow)]
  | .ret => [empty, (decide (s.fp < 2), .stackUnderflow),
      (decide (s.sp - 1 < s.fp), .outOfBoundsJump),
      (decide (s.frameArgc < 0), .outOfBoundsJump),
      (decide (s.fp - 3 - s.frameArgc < -1), .stackUnderflow),
      (outside s.frameReturnPc (s.progLen + 1), .outOfBoundsJump)]
  | .pop => [empty]
  | .print => [empty]
  | .halt => []

/-- "One instruction reports one fault: the first check that fails" (R166). -/
def firstFault : List (Bool × Cause) → Option Cause
  | [] => none
  | (failed, c) :: rest => if failed then some c else firstFault rest

/-- The fault of a step that fetches (R166): the undefined word, then the truncated instruction, then
the instruction's own checks. -/
def stepFault (s : State) : Option Cause :=
  match fetch s with
  | .invalidOpcode => some .invalidOpcode
  | .truncated => some .outOfBoundsJump
  | .ok i _ => firstFault (faultMatrix i s)
  | .endOfProgram => none

/-- Two states that differ at most in dead stack slots (R29). -/
def SameButDead (s t : State) : Prop :=
  t = { s with stack := t.stack } ∧ ∀ k : Nat, (k : Int) ≤ s.sp → t.stack.read k = s.stack.read k

/-- Two outcomes of the same kind, their states related by `R`. -/
def OutcomesRelated (R : State → State → Prop) : Result → Result → Prop
  | .next s, .next t => R s t
  | .fault a, .fault b => a = b
  | .refused a, .refused b => a = b
  | .next _, .fault _ => False
  | .next _, .refused _ => False
  | .fault _, .next _ => False
  | .fault _, .refused _ => False
  | .refused _, .next _ => False
  | .refused _, .fault _ => False

/-- An input under which the engine only holds: `run_en = 0` (R101). -/
def HostInput.holds : HostInput → Bool
  | .clock runEn _ => !runEn
  | .rst => false
  | .construct _ => false

/-- An input of `Step`, not a reset (R95). -/
def HostInput.isClock : HostInput → Bool
  | .clock _ _ => true
  | .rst => false
  | .construct _ => false

/-- The run under a list of host inputs, one step for each. -/
def runInputs (s : State) (inputs : List HostInput) : Result :=
  Sys2Proof.core.run inputs.length { s with inputs := inputs }

end Sys2Proof.Machine
end

