-- ==== Sys2Proof/Certificates/Slice0/Obligations.lean ====
section
/-! DEFINITION. The statements about the machine, each from a numbered rule of spec/ or derived from
the sections it names. A faulting instruction's next state is written `s.faultedWith c`: `s` with
`fsm` and `cause` replaced and nothing else (R165). An instruction's next state `t` is given as a
record equation `t = { s with … }`, which says that every field not named is unchanged, and, where a
memory changes, by what each of its slots reads after. -/

open Sys2Proof Sys2Proof.Machine

/-! ### Encoding -/

/-- For every injective numbering, decoding the words of any instruction gives that instruction and
the words after it (R71 to R76). -/
def Obligations.DecodeReadsBackEncode : Prop :=
  ∀ (o : OpcodeMap) (i : Instr) (rest : List Int), o.words.Nodup →
    decodeWords o (encode o i ++ rest) = .ok i rest

/-- Under the default parameters, the decoder reads every instruction whose operands are 64-bit words
back from its bits (R71, R81). -/
def Obligations.TableWordReadsBackEncoding : Prop :=
  ∀ (i : Instr) (nbits : Nat), i.wf Config.defaultW = true →
    Config.defaultW * maxInstrWords ≤ nbits →
      decodeTableWord nbits (encodeTableWord i) = some i

/-- Whatever the decoder reads as an instruction is that instruction's encoding followed by the words
left over: no other word sequence spells it (R71, R75). -/
def Obligations.DecodedWordsAreTheEncoding : Prop :=
  ∀ (o : OpcodeMap) (ws : List Int) (i : Instr) (rest : List Int),
    decodeWords o ws = .ok i rest → ws = encode o i ++ rest

/-- A sanity check: words written out from the tables of R71 and R74 decode to the instructions they
stand for. -/
def Obligations.WrittenOutWordsDecode : Prop :=
  decodeWords Config.defaultOpc [1, 42, 2] = .ok (.const 42) [2] ∧
  decodeWords Config.defaultOpc [2] = .ok .add [] ∧
  decodeWords Config.defaultOpc [9, 35, 1] = .ok (.jmpf 35) [1] ∧
  decodeWords Config.defaultOpc [10, -3, 2] = .ok (.load (-3)) [2] ∧
  decodeWords Config.defaultOpc [14, 5, 2, 17] = .ok (.call 5 2) [17] ∧
  decodeWords Config.defaultOpc [18] = .ok .halt []

/-- R77, R161: every word that is not one of the 18 opcode numbers is an illegal opcode; under the
default numbering these are 0, every negative word and every word from 19 up; executing one raises
InvalidOpcode at once. -/
def Obligations.UndefinedOpcodeFaults : Prop :=
  (∀ (o : OpcodeMap) (w : Int) (rest : List Int),
    decodeWords o (w :: rest) = .invalidOpcode ↔ w ∉ o.words) ∧
  (∀ w : Int, w ∉ Config.defaultOpc.words ↔ w ≤ 0 ∨ 19 ≤ w) ∧
  ∀ (s : State) (w : Int), Fetches s → s.progPort s.pc = some w → w ∉ s.params.opc.words →
    step s = .next (s.consume.faultedWith .invalidOpcode)

/-- R96: an instruction whose operands run past the end of the program raises OutOfBoundsJump,
whichever of the eight mnemonics with inline operands it is. -/
def Obligations.TruncatedInstructionFaults : Prop :=
  ∀ m : Mnemonic, 1 ≤ m.operandCount → TruncationFaults m

/-! ### The engine -/

/-- A step at a pc whose words decode to `i` is `exec i` on the state with the host's input taken and
`fsm <- Running` (R95, R97, R102). -/
def Obligations.StepRunsTheDecodedInstruction : Prop :=
  ∀ (s : State) (i : Instr) (rest : List Int), Fetches s → i.wf s.params.w = true →
    decodeWords s.params.opc (s.params.prog.drop s.pc.toNat) = .ok i rest →
      step s = exec i s.consume.start

/-- R93: with `cancel = 1` at the start of a step the run ends in `Halted` with cause Cancelled, and
nothing else changes. -/
def Obligations.CancelHaltsBetweenInstructions : Prop :=
  ∀ s : State, s.terminal = false → s.nextInput = .clock true true →
    step s = .next { s.consume with fsm := .halted, cause := .cancelled }

/-- R94: a step at `pc = N` ends the run in `Halted` with cause EndOfProgram, and nothing else
changes. -/
def Obligations.EndOfProgramHalts : Prop :=
  ∀ s : State, s.terminal = false → s.nextInput = .clock true false → s.pc = s.progLen →
    step s = .next { s.consume with fsm := .halted, cause := .endOfProgram }

/-- R102: a step with `run_en = 1` from `Ready` is exactly the step from `Running`. -/
def Obligations.ReadyStepsAsRunning : Prop :=
  ∀ (s : State) (cancel : Bool), s.fsm = .ready → s.nextInput = .clock true cancel →
    step s = step { s with fsm := .running }

/-- R99: from a terminal state no sequence of `Step` inputs changes anything; reset leaves it, for a
`Ready` machine if `START_PC` is in the program (R192). -/
def Obligations.TerminalStatesAbsorb : Prop :=
  (∀ (s : State) (inputs : List HostInput), s.terminal = true →
    (∀ x ∈ inputs, x.isClock = true) → runInputs s inputs = .next { s with inputs := [] }) ∧
  ∀ s : State, s.terminal = true → s.nextInput = .rst →
    0 ≤ s.params.startPc ∧ s.params.startPc < s.progLen → ∃ t, step s = .next t ∧ t.fsm = .ready

/-- R101: with `run_en = 0` a step changes nothing, so a run interrupted by any number of holds ends
as the run without them. -/
def Obligations.HoldsDoNotChangeTheRun : Prop :=
  (∀ (s : State) (cancel : Bool), s.terminal = false → s.nextInput = .clock false cancel →
    step s = .next s.consume) ∧
  ∀ (s : State) (inputs : List HostInput),
    runInputs s inputs = runInputs s (inputs.filter fun x => !x.holds)

/-- A step that fetches ends in one of three ways: HALT halts, a check faults with one of the four
run-time faults, or the engine is `Running` and `cause` is unchanged (R98). -/
def Obligations.FetchingStepEndsRunningHaltedOrFaulted : Prop :=
  ∀ s t : State, Fetches s → step s = .next t →
    ((∃ rest, fetch s = .ok .halt rest) ∧ t.fsm = .halted ∧ t.cause = .haltInstruction) ∨
    (t.fsm = .faulted ∧ t.cause ∈ [Cause.invalidOpcode, .stackOverflow, .stackUnderflow,
      .outOfBoundsJump]) ∨
    (t.fsm = .running ∧ t.cause = s.cause)

/-- A step that fetches raises the fault of the first failing check of the matrix, in the order of
R166, and raises none if no check fails (R174, which the spec marks as derived from rules R111 to
R153). The premise `SpInStack` is the invariant R25. -/
def Obligations.StepFaultsAsTheMatrixSays : Prop :=
  ∀ s : State, Fetches s → SpInStack s →
    (∀ c, stepFault s = some c → step s = .next (s.consume.faultedWith c)) ∧
    (stepFault s = none → ∃ t, step s = .next t ∧ t.fsm ≠ .faulted)

/-- R165: a step that ends in `Faulted` changed nothing but `fsm` and `cause`; its cause is one of the
four run-time faults, and the report the host reads names the pc, sp and fp at the start of the
instruction. -/
def Obligations.FaultsArePrecise : Prop :=
  ∀ (s t : State) (runEn cancel : Bool), s.terminal = false →
    s.nextInput = .clock runEn cancel → step s = .next t → t.fsm = .faulted →
      t = s.consume.faultedWith t.cause ∧
      t.cause ∈ [Cause.invalidOpcode, .stackOverflow, .stackUnderflow, .outOfBoundsJump] ∧
      t.faultReport = some { cause := t.cause, pc := s.pc, sp := s.sp, fp := s.fp }

/-- From a pc in the program, `Step` always has a next state (R95: "It is total and
deterministic"). -/
def Obligations.StepIsTotal : Prop :=
  ∀ s : State, PcInProgram s → s.nextInput.isClock = true → ∃ t, step s = .next t

/-! ### Reset and the host -/

/-- What reset leaves, with the values of R40, in any state in which the model's host may construct:
every register at its value, every locals slot 0, no live stack slot, no output, and `Ready` or, for
a `START_PC` outside the program, `Faulted` with ConfigurationError. Two clauses are the model's
choice: that a construct in a terminal state may bring any legal parameters, `W`, `STACK_CAP` and
`OPC` among them (log entry 8), and the move itself with what is left of `inputs` (log entry 2). -/
def Obligations.ConstructLeavesTheResetValues : Prop :=
  ∀ (s : State) (p : Params), s.nextInput = .construct p → p.valid →
    (s.terminal = true ∨ p = s.params) →
      ∃ t, step s = .next t ∧ t.params = p ∧ t.pc = p.startPc ∧ t.sp = -1 ∧ t.fp = 0 ∧
        (∀ i, t.localsAt i = 0) ∧ (∀ i, ¬ t.liveSlot i) ∧ t.out = [] ∧
        t.inputs = s.inputs.tail ∧
        if 0 ≤ p.startPc ∧ p.startPc < p.prog.length then t.fsm = .ready ∧ t.cause = .none
        else t.fsm = .faulted ∧ t.cause = .configurationError

/-- R192: a machine whose `START_PC` is in the program comes out of reset in `Ready`; any other comes
out in `Faulted` with ConfigurationError, with the report `(ConfigurationError, START_PC, −1, 0)`, and
never executes anything. -/
def Obligations.ConfigurationErrorNeverRuns : Prop :=
  (∀ (p : Params) (inputs : List HostInput), 0 ≤ p.startPc ∧ p.startPc < p.prog.length →
    (construct p inputs).fsm = .ready) ∧
  ∀ (p : Params) (inputs : List HostInput), ¬ (0 ≤ p.startPc ∧ p.startPc < p.prog.length) →
    (∀ x ∈ inputs, x.isClock = true) →
      ∃ t, runInputs (construct p []) inputs = .next t ∧ t.fsm = .faulted ∧
        t.cause = .configurationError ∧ t.pc = p.startPc ∧ t.sp = -1 ∧ t.fp = 0 ∧ t.out = [] ∧
        t.faultReport =
          some { cause := .configurationError, pc := p.startPc, sp := -1, fp := 0 }

/-- `rst` may be applied in any state and discards the run: two states with the same parameters and
the same coming inputs are the same machine after it (R191). -/
def Obligations.RstDiscardsTheRun : Prop :=
  ∀ s u : State, s.nextInput = .rst → u.nextInput = .rst → s.params = u.params →
    s.inputs = u.inputs → ∃ t, step s = .next t ∧ step u = .next t ∧ t.params = s.params ∧
      t.sp = -1 ∧ t.out = [] ∧ t.pc = s.params.startPc

/-- The host has no move that breaks R7 or that changes a parameter between reset and a terminal
state (R197, R201, U12): the model refuses each by name. -/
def Obligations.IllegalHostMovesAreRefused : Prop :=
  ∀ (s : State) (p : Params), s.nextInput = .construct p →
    (¬ p.valid → step s = .refused .parametersOutOfRange) ∧
    (p.valid → s.terminal = false → p ≠ s.params →
      step s = .refused .parametersChangedDuringRun)

/-- The program and every other parameter stay as they are but for a `construct` by the host in a
terminal state (R61, R197). -/
def Obligations.OnlyConstructReplacesParameters : Prop :=
  ∀ s t : State, step s = .next t → t.params = s.params ∨
    (s.terminal = true ∧ t.params.valid ∧ s.nextInput = .construct t.params)

/-! ### Instructions, one statement for each rule -/

/-- R111. -/
def Obligations.ConstPushesItsOperand : Prop :=
  (∀ a1 : Int, encode Config.defaultOpc (.const a1) = [1, a1]) ∧ TruncationFaults .const ∧
  ∀ (a1 : Int) (s : State),
    (s.sp < (s.params.stackCap : Int) - 1 → ∃ t, exec (.const a1) s = .next t ∧
      t = { s with pc := s.pc + 2, sp := s.sp + 1, stack := t.stack } ∧
      t.stack.read (s.sp + 1).toNat = a1 ∧
      ∀ k, k ≠ (s.sp + 1).toNat → t.stack.read k = s.stack.read k) ∧
    (¬ s.sp < (s.params.stackCap : Int) - 1 →
      exec (.const a1) s = .next (s.faultedWith .stackOverflow))

/-- R112. -/
def Obligations.AddReplacesTwoWordsByTheirWrappedSum : Prop :=
  encode Config.defaultOpc .add = [2] ∧
  ∀ s : State,
    (1 ≤ s.sp → ∃ t, exec .add s = .next t ∧
      t = { s with pc := s.pc + 1, sp := s.sp - 1, stack := t.stack } ∧
      t.stack.read (s.sp - 1).toNat = wrap s.params.w (s.stackAt (s.sp - 1) + s.stackAt s.sp) ∧
      ∀ k, k ≠ (s.sp - 1).toNat → t.stack.read k = s.stack.read k) ∧
    (¬ 1 ≤ s.sp → exec .add s = .next (s.faultedWith .stackUnderflow))

/-- R113. -/
def Obligations.SubReplacesTwoWordsByTheirWrappedDifference : Prop :=
  encode Config.defaultOpc .sub = [3] ∧
  ∀ s : State,
    (1 ≤ s.sp → ∃ t, exec .sub s = .next t ∧
      t = { s with pc := s.pc + 1, sp := s.sp - 1, stack := t.stack } ∧
      t.stack.read (s.sp - 1).toNat = wrap s.params.w (s.stackAt (s.sp - 1) - s.stackAt s.sp) ∧
      ∀ k, k ≠ (s.sp - 1).toNat → t.stack.read k = s.stack.read k) ∧
    (¬ 1 ≤ s.sp → exec .sub s = .next (s.faultedWith .stackUnderflow))

/-- R114. -/
def Obligations.MulReplacesTwoWordsByTheirWrappedProduct : Prop :=
  encode Config.defaultOpc .mul = [4] ∧
  ∀ s : State,
    (1 ≤ s.sp → ∃ t, exec .mul s = .next t ∧
      t = { s with pc := s.pc + 1, sp := s.sp - 1, stack := t.stack } ∧
      t.stack.read (s.sp - 1).toNat = wrap s.params.w (s.stackAt (s.sp - 1) * s.stackAt s.sp) ∧
      ∀ k, k ≠ (s.sp - 1).toNat → t.stack.read k = s.stack.read k) ∧
    (¬ 1 ≤ s.sp → exec .mul s = .next (s.faultedWith .stackUnderflow))

/-- R115. -/
def Obligations.LtLeavesOneWhenTheLowerWordIsLess : Prop :=
  encode Config.defaultOpc .lt = [5] ∧
  ∀ s : State,
    (1 ≤ s.sp → ∃ t, exec .lt s = .next t ∧
      t = { s with pc := s.pc + 1, sp := s.sp - 1, stack := t.stack } ∧
      t.stack.read (s.sp - 1).toNat = (if s.stackAt (s.sp - 1) < s.stackAt s.sp then 1 else 0) ∧
      ∀ k, k ≠ (s.sp - 1).toNat → t.stack.read k = s.stack.read k) ∧
    (¬ 1 ≤ s.sp → exec .lt s = .next (s.faultedWith .stackUnderflow))

/-- R116. -/
def Obligations.EqLeavesOneWhenTheWordsAreEqual : Prop :=
  encode Config.defaultOpc .eq = [6] ∧
  ∀ s : State,
    (1 ≤ s.sp → ∃ t, exec .eq s = .next t ∧
      t = { s with pc := s.pc + 1, sp := s.sp - 1, stack := t.stack } ∧
      t.stack.read (s.sp - 1).toNat = (if s.stackAt s.sp = s.stackAt (s.sp - 1) then 1 else 0) ∧
      ∀ k, k ≠ (s.sp - 1).toNat → t.stack.read k = s.stack.read k) ∧
    (¬ 1 ≤ s.sp → exec .eq s = .next (s.faultedWith .stackUnderflow))

/-- R121. -/
def Obligations.JmpLoadsTheTarget : Prop :=
  (∀ a1 : Int, encode Config.defaultOpc (.jmp a1) = [7, a1]) ∧ TruncationFaults .jmp ∧
  ∀ (a1 : Int) (s : State),
    (0 ≤ a1 ∧ a1 < s.progLen → exec (.jmp a1) s = .next { s with pc := a1 }) ∧
    (¬ (0 ≤ a1 ∧ a1 < s.progLen) →
      exec (.jmp a1) s = .next (s.faultedWith .outOfBoundsJump))

/-- R122: taken exactly when the popped word is 1; the target is checked only then. -/
def Obligations.JmptJumpsOnOne : Prop :=
  (∀ a1 : Int, encode Config.defaultOpc (.jmpt a1) = [8, a1]) ∧ TruncationFaults .jmpt ∧
  ∀ (a1 : Int) (s : State),
    (¬ 0 ≤ s.sp → exec (.jmpt a1) s = .next (s.faultedWith .stackUnderflow)) ∧
    (0 ≤ s.sp → s.stackAt s.sp = 1 → 0 ≤ a1 ∧ a1 < s.progLen →
      exec (.jmpt a1) s = .next { s with pc := a1, sp := s.sp - 1 }) ∧
    (0 ≤ s.sp → s.stackAt s.sp = 1 → ¬ (0 ≤ a1 ∧ a1 < s.progLen) →
      exec (.jmpt a1) s = .next (s.faultedWith .outOfBoundsJump)) ∧
    (0 ≤ s.sp → s.stackAt s.sp ≠ 1 →
      exec (.jmpt a1) s = .next { s with pc := s.pc + 2, sp := s.sp - 1 })

/-- R123: taken exactly when the popped word is 0; the target is checked only then. -/
def Obligations.JmpfJumpsOnZero : Prop :=
  (∀ a1 : Int, encode Config.defaultOpc (.jmpf a1) = [9, a1]) ∧ TruncationFaults .jmpf ∧
  ∀ (a1 : Int) (s : State),
    (¬ 0 ≤ s.sp → exec (.jmpf a1) s = .next (s.faultedWith .stackUnderflow)) ∧
    (0 ≤ s.sp → s.stackAt s.sp = 0 → 0 ≤ a1 ∧ a1 < s.progLen →
      exec (.jmpf a1) s = .next { s with pc := a1, sp := s.sp - 1 }) ∧
    (0 ≤ s.sp → s.stackAt s.sp = 0 → ¬ (0 ≤ a1 ∧ a1 < s.progLen) →
      exec (.jmpf a1) s = .next (s.faultedWith .outOfBoundsJump)) ∧
    (0 ≤ s.sp → s.stackAt s.sp ≠ 0 →
      exec (.jmpf a1) s = .next { s with pc := s.pc + 2, sp := s.sp - 1 })

/-- R131: the index is the exact sum `fp + a1` and must be a live slot; it is checked before the room
for the push. -/
def Obligations.LoadPushesALiveSlot : Prop :=
  (∀ a1 : Int, encode Config.defaultOpc (.load a1) = [10, a1]) ∧ TruncationFaults .load ∧
  ∀ (a1 : Int) (s : State),
    (¬ (0 ≤ s.fp + a1 ∧ s.fp + a1 ≤ s.sp) →
      exec (.load a1) s = .next (s.faultedWith .outOfBoundsJump)) ∧
    (0 ≤ s.fp + a1 ∧ s.fp + a1 ≤ s.sp → ¬ s.sp < (s.params.stackCap : Int) - 1 →
      exec (.load a1) s = .next (s.faultedWith .stackOverflow)) ∧
    (0 ≤ s.fp + a1 ∧ s.fp + a1 ≤ s.sp → s.sp < (s.params.stackCap : Int) - 1 →
      ∃ t, exec (.load a1) s = .next t ∧
        t = { s with pc := s.pc + 2, sp := s.sp + 1, stack := t.stack } ∧
        t.stack.read (s.sp + 1).toNat = s.stackAt (s.fp + a1) ∧
        ∀ k, k ≠ (s.sp + 1).toNat → t.stack.read k = s.stack.read k)

/-- R132: frame-relative, into the locals store; the stack memory is untouched. -/
def Obligations.StoreWritesAFrameRelativeLocal : Prop :=
  (∀ a1 : Int, encode Config.defaultOpc (.store a1) = [11, a1]) ∧ TruncationFaults .store ∧
  ∀ (a1 : Int) (s : State),
    (¬ 0 ≤ s.sp → exec (.store a1) s = .next (s.faultedWith .stackUnderflow)) ∧
    (0 ≤ s.sp → ¬ (0 ≤ s.fp + a1 ∧ s.fp + a1 < s.params.localsSize) →
      exec (.store a1) s = .next (s.faultedWith .outOfBoundsJump)) ∧
    (0 ≤ s.sp → 0 ≤ s.fp + a1 ∧ s.fp + a1 < s.params.localsSize →
      ∃ t, exec (.store a1) s = .next t ∧
        t = { s with pc := s.pc + 2, sp := s.sp - 1, locals := t.locals } ∧
        t.locals.read (s.fp + a1).toNat = s.stackAt s.sp ∧
        ∀ k, k ≠ (s.fp + a1).toNat → t.locals.read k = s.locals.read k)

/-- R133: the popped word is an absolute index into the locals store, and sp is unchanged. -/
def Obligations.GloadReplacesTheAddressByTheLocal : Prop :=
  encode Config.defaultOpc .gload = [12] ∧
  ∀ s : State,
    (¬ 0 ≤ s.sp → exec .gload s = .next (s.faultedWith .stackUnderflow)) ∧
    (0 ≤ s.sp → ¬ (0 ≤ s.stackAt s.sp ∧ s.stackAt s.sp < s.params.localsSize) →
      exec .gload s = .next (s.faultedWith .outOfBoundsJump)) ∧
    (0 ≤ s.sp → 0 ≤ s.stackAt s.sp ∧ s.stackAt s.sp < s.params.localsSize →
      ∃ t, exec .gload s = .next t ∧
        t = { s with pc := s.pc + 1, stack := t.stack } ∧
        t.stack.read s.sp.toNat = s.locals.read (s.stackAt s.sp).toNat ∧
        ∀ k, k ≠ s.sp.toNat → t.stack.read k = s.stack.read k)

/-- R134: absolute, into the locals store; fp plays no part. -/
def Obligations.GstoreWritesAnAbsoluteLocal : Prop :=
  (∀ a1 : Int, encode Config.defaultOpc (.gstore a1) = [13, a1]) ∧ TruncationFaults .gstore ∧
  ∀ (a1 : Int) (s : State),
    (¬ 0 ≤ s.sp → exec (.gstore a1) s = .next (s.faultedWith .stackUnderflow)) ∧
    (0 ≤ s.sp → ¬ (0 ≤ a1 ∧ a1 < s.params.localsSize) →
      exec (.gstore a1) s = .next (s.faultedWith .outOfBoundsJump)) ∧
    (0 ≤ s.sp → 0 ≤ a1 ∧ a1 < s.params.localsSize →
      ∃ t, exec (.gstore a1) s = .next t ∧
        t = { s with pc := s.pc + 2, sp := s.sp - 1, locals := t.locals } ∧
        t.locals.read a1.toNat = s.stackAt s.sp ∧
        ∀ k, k ≠ a1.toNat → t.locals.read k = s.locals.read k)

/-- R141. The premise `−1 ≤ sp` is the invariant SpInStack's lower bound (R25). -/
def Obligations.CallPushesTheFrameAndJumps : Prop :=
  (∀ a1 a2 : Int, encode Config.defaultOpc (.call a1 a2) = [14, a1, a2]) ∧
  TruncationFaults .call ∧
  ∀ (a1 a2 : Int) (s : State),
    (¬ (0 ≤ a1 ∧ a1 < s.progLen) →
      exec (.call a1 a2) s = .next (s.faultedWith .outOfBoundsJump)) ∧
    (0 ≤ a1 ∧ a1 < s.progLen → ¬ s.sp + 3 ≤ (s.params.stackCap : Int) - 1 →
      exec (.call a1 a2) s = .next (s.faultedWith .stackOverflow)) ∧
    (0 ≤ a1 ∧ a1 < s.progLen → s.sp + 3 ≤ (s.params.stackCap : Int) - 1 → -1 ≤ s.sp →
      ∃ t, exec (.call a1 a2) s = .next t ∧
        t = { s with pc := a1, sp := s.sp + 3, fp := s.sp + 3, stack := t.stack } ∧
        t.stack.read (s.sp + 1).toNat = a2 ∧ t.stack.read (s.sp + 2).toNat = s.fp ∧
        t.stack.read (s.sp + 3).toNat = s.pc + 3 ∧
        ∀ k, k ≠ (s.sp + 1).toNat → k ≠ (s.sp + 2).toNat → k ≠ (s.sp + 3).toNat →
          t.stack.read k = s.stack.read k)

/-- R143: the six checks c1 to c6 in their order, and the effect when all pass. -/
def Obligations.RetUnwindsTheFrame : Prop :=
  encode Config.defaultOpc .ret = [15] ∧
  ∀ (s : State) (rpc sfp argc : Int),
    s.stackAt s.fp = rpc → s.stackAt (s.fp - 1) = sfp → s.stackAt (s.fp - 2) = argc →
    (¬ 0 ≤ s.sp → exec .ret s = .next (s.faultedWith .stackUnderflow)) ∧
    (0 ≤ s.sp → ¬ 2 ≤ s.fp → exec .ret s = .next (s.faultedWith .stackUnderflow)) ∧
    (0 ≤ s.sp → 2 ≤ s.fp → ¬ s.fp ≤ s.sp - 1 →
      exec .ret s = .next (s.faultedWith .outOfBoundsJump)) ∧
    (0 ≤ s.sp → 2 ≤ s.fp → s.fp ≤ s.sp - 1 → ¬ 0 ≤ argc →
      exec .ret s = .next (s.faultedWith .outOfBoundsJump)) ∧
    (0 ≤ s.sp → 2 ≤ s.fp → s.fp ≤ s.sp - 1 → 0 ≤ argc → ¬ -1 ≤ s.fp - 3 - argc →
      exec .ret s = .next (s.faultedWith .stackUnderflow)) ∧
    (0 ≤ s.sp → 2 ≤ s.fp → s.fp ≤ s.sp - 1 → 0 ≤ argc → -1 ≤ s.fp - 3 - argc →
      ¬ (0 ≤ rpc ∧ rpc ≤ s.progLen) → exec .ret s = .next (s.faultedWith .outOfBoundsJump)) ∧
    (0 ≤ s.sp → 2 ≤ s.fp → s.fp ≤ s.sp - 1 → 0 ≤ argc → -1 ≤ s.fp - 3 - argc →
      0 ≤ rpc ∧ rpc ≤ s.progLen →
      ∃ t, exec .ret s = .next t ∧
        t = { s with pc := rpc, sp := s.fp - 2 - argc, fp := sfp, stack := t.stack } ∧
        t.stack.read (s.fp - 2 - argc).toNat = s.stackAt s.sp ∧
        ∀ k, k ≠ (s.fp - 2 - argc).toNat → t.stack.read k = s.stack.read k)

/-- R151. -/
def Obligations.PopDropsTheTop : Prop :=
  encode Config.defaultOpc .pop = [16] ∧
  ∀ s : State,
    (0 ≤ s.sp → exec .pop s = .next { s with pc := s.pc + 1, sp := s.sp - 1 } ∧
      ¬ ({ s with pc := s.pc + 1, sp := s.sp - 1 } : State).liveSlot s.sp) ∧
    (¬ 0 ≤ s.sp → exec .pop s = .next (s.faultedWith .stackUnderflow))

/-- R152. -/
def Obligations.PrintEmitsTheTopOnce : Prop :=
  encode Config.defaultOpc .print = [17] ∧
  ∀ s : State,
    (0 ≤ s.sp → ∃ t, exec .print s = .next t ∧
      t = { s with pc := s.pc + 1, sp := s.sp - 1, out := s.out ++ [s.stackAt s.sp] } ∧
      outPulse s t = some (s.stackAt s.sp)) ∧
    (¬ 0 ≤ s.sp → exec .print s = .next (s.faultedWith .stackUnderflow))

/-- R153. -/
def Obligations.HaltStopsTheEngine : Prop :=
  encode Config.defaultOpc .halt = [18] ∧
  ∀ s : State,
    exec .halt s =
      .next { s with pc := s.pc + 1, fsm := .halted, cause := .haltInstruction } ∧
    ∀ (t : State) (inputs : List HostInput), exec .halt s = .next t →
      (∀ x ∈ inputs, x.isClock = true) → runInputs t inputs = .next { t with inputs := [] }

/-- The round trip (R144, which the spec marks `[derived: from rules R141, R143]`). CALL with `argc = k ≥ 0` at a depth of at least `k` leads to `u`; `v` is any
state of the callee with the fp that CALL gave it, the frame words as CALL wrote them, and at least
one value above the frame. RET at `v` leaves the caller's fp, pc `P + 3`, sp `S + 1 − k`, the return
value in place of the arguments, and every slot below the arguments as it is at `v`. -/
def Obligations.CallThenRetRestoresTheCaller : Prop :=
  ∀ (s u v : State) (a1 k : Int), exec (.call a1 k) s = .next u → u.fsm ≠ .faulted →
    -1 ≤ s.sp → 0 ≤ k → k ≤ s.sp + 1 → 0 ≤ s.pc → s.pc + 3 ≤ s.progLen →
    v.params = s.params → v.fp = u.fp → u.sp < v.sp →
    v.stackAt v.fp = u.stackAt u.fp → v.stackAt (v.fp - 1) = u.stackAt (u.fp - 1) →
    v.stackAt (v.fp - 2) = u.stackAt (u.fp - 2) →
      ∃ t, exec .ret v = .next t ∧ t.fsm = v.fsm ∧ t.sp = s.sp + 1 - k ∧ t.fp = s.fp ∧
        t.pc = s.pc + 3 ∧ t.stackAt t.sp = v.stackAt v.sp ∧ t.locals = v.locals ∧
        ∀ j : Nat, (j : Int) < s.sp + 1 - k → t.stack.read j = v.stack.read j

/-! ### The whole machine -/

/-- `0 ≤ pc ≤ N` in every state but that of a configuration error; it holds at reset and every step
keeps it (R23, which the spec marks as derived from rules R96, R121 to R123, R141, R143, R192). -/
def Obligations.PcStaysInTheProgram : Prop :=
  (∀ (p : Params) (inputs : List HostInput), PcInProgram (construct p inputs)) ∧
  ∀ s t : State, PcInProgram s → step s = .next t → PcInProgram t

/-- `−1 ≤ sp ≤ STACK_CAP − 1` holds at reset and every step keeps it (R25, which the spec marks as
derived from rules R91, R92, R143). -/
def Obligations.SpStaysInTheStack : Prop :=
  (∀ (p : Params) (inputs : List HostInput), SpInStack (construct p inputs)) ∧
  ∀ s t : State, SpInStack s → step s = .next t → SpInStack t

/-- `cause` says why the engine is in a terminal state and is None in `Ready` and `Running`
(R28). -/
def Obligations.CauseKeepsAgreeingWithTheEngine : Prop :=
  ∀ s t : State, CauseAgrees s → step s = .next t → CauseAgrees t

/-- Every step keeps both memories in their canonical form and inside their sizes (R29, R30, R55).
The canonical form itself is the model's choice, log entry 4. -/
def Obligations.StepKeepsTheMemoriesCanonical : Prop :=
  ∀ s t : State, SpInStack s → s.stack.within s.params.stackCap →
    s.locals.within s.params.localsSize → step s = .next t →
      t.stack.within t.params.stackCap ∧ t.locals.within t.params.localsSize

/-- Every step keeps the whole invariant: legal parameters, pc in the program, sp in the stack, cause
and engine state in agreement, memories canonical and inside their sizes, and every register, slot
and emitted value a `W`-bit word (R7, R8, R23, R25, R28 to R30). -/
def Obligations.EveryStepKeepsTheInvariant : Prop :=
  ∀ s t : State, Inv s → step s = .next t → Inv t

/-- The invariant holds at reset, whatever legal parameters the host supplies, and in `State.reset`,
the machine with no program (the latter is the model's choice, log entry 3). -/
def Obligations.ResetHasTheInvariant : Prop :=
  Inv State.reset ∧
  ∀ (p : Params) (inputs : List HostInput), p.valid → Inv (construct p inputs)

/-- fp changes only in CALL and RET (R26). -/
def Obligations.FpChangesOnlyInCallAndRet : Prop :=
  ∀ (s t : State) (runEn cancel : Bool), s.nextInput = .clock runEn cancel → step s = .next t →
    t.fp = s.fp ∨ (∃ a1 a2 rest, fetch s = .ok (.call a1 a2) rest) ∨
      ∃ rest, fetch s = .ok .ret rest

/-- The locals store changes in at most one slot per step, and only STORE, at `fp + a1`, and GSTORE,
at `a1`, change it (R31, which the spec marks as derived from rules R131 to R134). -/
def Obligations.LocalsChangeOnlyInStoreAndGstore : Prop :=
  ∀ (s t : State) (runEn cancel : Bool), s.nextInput = .clock runEn cancel → step s = .next t →
    t.locals = s.locals ∨
    (∃ a1 rest, fetch s = .ok (.store a1) rest ∧ 0 ≤ s.fp + a1 ∧
      s.fp + a1 < s.params.localsSize ∧
      ∀ k, k ≠ (s.fp + a1).toNat → t.locals.read k = s.locals.read k) ∨
    ∃ a1 rest, fetch s = .ok (.gstore a1) rest ∧ 0 ≤ a1 ∧ a1 < s.params.localsSize ∧
      ∀ k, k ≠ a1.toNat → t.locals.read k = s.locals.read k

/-- The output trace only grows, by at most one word per step, and only PRINT grows it, by the word on
top of the stack (R32). -/
def Obligations.OnlyPrintGrowsTheOutput : Prop :=
  ∀ (s t : State) (runEn cancel : Bool), s.nextInput = .clock runEn cancel → step s = .next t →
    t.out = s.out ∨
      ((∃ rest, fetch s = .ok .print rest) ∧ t.out = s.out ++ [s.stackAt s.sp])

/-- Dead stack slots are unobservable: from two states that differ only in slots above sp, a step ends
the same way, in states that again differ only in such slots (R29, R35). -/
def Obligations.DeadSlotsAreUnobservable : Prop :=
  ∀ s t : State, SameButDead s t → OutcomesRelated SameButDead (step s) (step t)

/-- `wrap(z)` is the one word of width `W` congruent to `z` modulo `2^W` (R8). -/
def Obligations.WrapIsTheOneCongruentWord : Prop :=
  ∀ (w : Nat) (z : Int), 1 ≤ w →
    FitsWord w (wrap w z) ∧ ((2 ^ w : Nat) : Int) ∣ wrap w z - z ∧
    ∀ y : Int, FitsWord w y → ((2 ^ w : Nat) : Int) ∣ y - z → y = wrap w z
end

