-- ==== Sys2Proof/Laws/Memory.lean ====
section
/-! SUPPORT. The laws of the word memory: a read after a write, and that every operation keeps the
canonical form, the bound on the indices and any property of the words held. -/

namespace Sys2Proof.Machine

theorem Memory.read_erase (m : Memory) (a b : Nat) :
    (m.erase a).read b = if b = a then 0 else m.read b := by
  induction m with
  | nil => simp [Memory.erase, Memory.read]
  | cons c m ih =>
    obtain ⟨k, v⟩ := c
    by_cases hk : k = a
    · subst hk
      simp only [Memory.erase, Memory.read] at ih ⊢
      simp only [List.filter_cons, ne_eq, not_true, decide_false, Bool.false_eq_true, if_false]
      rw [ih]
      by_cases hb : b = k
      · simp [hb]
      · simp [hb, Ne.symm hb]
    · simp only [Memory.erase, Memory.read] at ih ⊢
      simp only [List.filter_cons, ne_eq, hk, not_false_eq_true, decide_true, if_true, Memory.read]
      rw [ih]
      by_cases hb : b = a
      · subst hb; simp [hk]
      · simp [hb]

theorem Memory.read_insert (m : Memory) (a : Nat) (v : Int) (b : Nat) (ha : ∀ c ∈ m, c.1 ≠ a) :
    (m.insert a v).read b = if b = a then v else m.read b := by
  induction m with
  | nil => simp [Memory.insert, Memory.read, eq_comm (a := a)]
  | cons c m ih =>
    obtain ⟨k, x⟩ := c
    have hk : k ≠ a := ha (k, x) (by simp)
    have ih := ih fun c hc => ha c (by simp [hc])
    unfold Memory.insert
    split
    · by_cases hb : b = a
      · simp [Memory.read, hb]
      · simp [Memory.read, hb, Ne.symm hb]
    · simp only [Memory.read, ih]
      by_cases hb : b = a
      · subst hb; simp [hk]
      · simp [hb]

theorem Memory.mem_erase {m : Memory} {a : Nat} {c : Nat × Int} :
    c ∈ m.erase a ↔ c ∈ m ∧ c.1 ≠ a := by simp [Memory.erase]

/-- What a slot reads after a write: the word written, or what it read before. -/
theorem Memory.read_write (m : Memory) (a : Nat) (v : Int) (b : Nat) :
    (m.write a v).read b = if b = a then v else m.read b := by
  unfold Memory.write
  split
  · rename_i h; rw [Memory.read_erase, h]
  · rw [Memory.read_insert _ _ _ _ fun c hc => (Memory.mem_erase.mp hc).2, Memory.read_erase]
    split <;> rfl

@[simp] theorem Memory.read_write_same (m : Memory) (a : Nat) (v : Int) :
    (m.write a v).read a = v := by simp [Memory.read_write]

theorem Memory.read_write_other (m : Memory) {a b : Nat} (v : Int) (h : b ≠ a) :
    (m.write a v).read b = m.read b := by simp [Memory.read_write, h]

theorem Memory.mem_insert {m : Memory} {a : Nat} {v : Int} {c : Nat × Int} :
    c ∈ m.insert a v ↔ c = (a, v) ∨ c ∈ m := by
  induction m with
  | nil => simp [Memory.insert]
  | cons d m ih =>
    unfold Memory.insert
    split
    · simp
    · simp only [List.mem_cons, ih]; tauto

/-- An entry of a memory after a write is the one written or one it had. -/
theorem Memory.mem_write {m : Memory} {a : Nat} {v : Int} {c : Nat × Int}
    (h : c ∈ m.write a v) : c = (a, v) ∨ c ∈ m := by
  unfold Memory.write at h
  split at h
  · exact .inr (Memory.mem_erase.mp h).1
  · exact (Memory.mem_insert.mp h).imp_right fun h => (Memory.mem_erase.mp h).1

theorem Memory.erase_keeps_wf {m : Memory} (a : Nat) (h : m.wf) : (m.erase a).wf :=
  ⟨h.1.filter _, fun c hc => h.2 c (Memory.mem_erase.mp hc).1⟩

theorem Memory.insert_keeps_wf {m : Memory} {a : Nat} {v : Int} (h : m.wf)
    (ha : ∀ c ∈ m, c.1 ≠ a) (hv : v ≠ 0) : (m.insert a v).wf := by
  refine ⟨?_, fun c hc => (Memory.mem_insert.mp hc).elim (fun e => e ▸ hv) (h.2 c)⟩
  have hs := h.1
  clear h
  induction m with
  | nil => simp [Memory.insert]
  | cons d m ih =>
    obtain ⟨k, x⟩ := d
    have hk : k ≠ a := ha (k, x) (by simp)
    obtain ⟨hd, hm⟩ := List.pairwise_cons.mp hs
    unfold Memory.insert
    split
    · rename_i hlt
      refine List.pairwise_cons.mpr ⟨fun c hc => ?_, hs⟩
      rcases List.mem_cons.mp hc with rfl | hc
      · exact hlt
      · exact lt_trans hlt (hd c hc)
    · refine List.pairwise_cons.mpr ⟨fun c hc => ?_, ih (fun c hc => ha c (by simp [hc])) hm⟩
      rcases Memory.mem_insert.mp hc with rfl | hc
      · simp; omega
      · exact hd c hc

/-- A write keeps the canonical form. -/
theorem Memory.write_keeps_wf {m : Memory} (a : Nat) (v : Int) (h : m.wf) : (m.write a v).wf := by
  unfold Memory.write
  split
  · exact Memory.erase_keeps_wf a h
  · rename_i hv
    exact Memory.insert_keeps_wf (Memory.erase_keeps_wf a h)
      (fun c hc => (Memory.mem_erase.mp hc).2) hv

/-- A write inside the memory's size keeps the memory within it. -/
theorem Memory.write_keeps_within {m : Memory} {n a : Nat} (v : Int) (h : m.within n) (ha : a < n) :
    (m.write a v).within n :=
  ⟨Memory.write_keeps_wf a v h.1, fun c hc =>
    (Memory.mem_write hc).elim (fun e => e ▸ ha) (h.2 c)⟩

theorem Memory.reset_within (n : Nat) : Memory.within [] n := by simp [Memory.within, Memory.wf]

/-- A read gives the word of an entry, or 0. -/
theorem Memory.read_eq_or_mem (m : Memory) (a : Nat) : m.read a = 0 ∨ (a, m.read a) ∈ m := by
  induction m with
  | nil => simp [Memory.read]
  | cons c m ih =>
    obtain ⟨k, v⟩ := c
    by_cases hk : k = a
    · simp [Memory.read, hk]
    · simp only [Memory.read, hk, if_false]; exact ih.imp_right (List.mem_cons_of_mem _)

/-- In the canonical form, two memories that read alike everywhere are the same data. -/
theorem Memory.eq_of_read {m n : Memory} (hm : m.wf) (hn : n.wf) (h : ∀ a, m.read a = n.read a) :
    m = n := by
  have notMem : ∀ {k : Nat} {l : Memory}, (∀ c ∈ l, k < c.1) → l.read k = 0 := fun {k l} hl =>
    (Memory.read_eq_or_mem l k).resolve_right fun hmem => lt_irrefl _ (hl _ hmem)
  induction m generalizing n with
  | nil =>
    cases n with
    | nil => rfl
    | cons d n => exact absurd (by simpa [Memory.read] using (h d.1).symm) (hn.2 d (by simp))
  | cons c m ih =>
    cases n with
    | nil => exact absurd (by simpa [Memory.read] using h c.1) (hm.2 c (by simp))
    | cons d n =>
      obtain ⟨k, v⟩ := c
      obtain ⟨l, w⟩ := d
      obtain ⟨hk, hm'⟩ := List.pairwise_cons.mp hm.1
      obtain ⟨hl, hn'⟩ := List.pairwise_cons.mp hn.1
      have hv : v ≠ 0 := hm.2 (k, v) (by simp)
      have hw : w ≠ 0 := hn.2 (l, w) (by simp)
      have hkl : k = l := by
        rcases lt_trichotomy k l with hlt | he | hlt
        · have := h k
          simp only [Memory.read, if_true, if_neg (Nat.ne_of_gt hlt)] at this
          exact absurd (this.trans (notMem fun c hc => lt_trans hlt (hl c hc))) hv
        · exact he
        · have := h l
          simp only [Memory.read, if_true, if_neg (Nat.ne_of_gt hlt)] at this
          exact absurd (this.symm.trans (notMem fun c hc => lt_trans hlt (hk c hc))) hw
      subst hkl
      have hvw : v = w := by simpa [Memory.read] using h k
      subst hvw
      refine congrArg _ (ih ⟨hm', fun c hc => hm.2 c (by simp [hc])⟩
        ⟨hn', fun c hc => hn.2 c (by simp [hc])⟩ fun a => ?_)
      by_cases ha : k = a
      · subst ha; rw [notMem hk, notMem hl]
      · simpa [Memory.read, ha] using h a

end Sys2Proof.Machine
end

