-- ==== Sys2Proof/Laws/State.lean ====
section
/-! SUPPORT. What each named update does to each field of the state: one lemma per field per update. -/

namespace Sys2Proof.Machine

section setStack

@[simp] theorem State.setStack_params (s : State) (i : Int) (v : Int) :
    (s.setStack i v).params = s.params :=
  rfl
@[simp] theorem State.setStack_pc (s : State) (i : Int) (v : Int) : (s.setStack i v).pc = s.pc :=
  rfl
@[simp] theorem State.setStack_sp (s : State) (i : Int) (v : Int) : (s.setStack i v).sp = s.sp :=
  rfl
@[simp] theorem State.setStack_fp (s : State) (i : Int) (v : Int) : (s.setStack i v).fp = s.fp :=
  rfl
@[simp] theorem State.setStack_fsm (s : State) (i : Int) (v : Int) :
    (s.setStack i v).fsm = s.fsm :=
  rfl
@[simp] theorem State.setStack_cause (s : State) (i : Int) (v : Int) :
    (s.setStack i v).cause = s.cause :=
  rfl
@[simp] theorem State.setStack_stack (s : State) (i : Int) (v : Int) :
    (s.setStack i v).stack = s.stack.write i.toNat v :=
  rfl
@[simp] theorem State.setStack_locals (s : State) (i : Int) (v : Int) :
    (s.setStack i v).locals = s.locals :=
  rfl
@[simp] theorem State.setStack_out (s : State) (i : Int) (v : Int) :
    (s.setStack i v).out = s.out :=
  rfl
@[simp] theorem State.setStack_inputs (s : State) (i : Int) (v : Int) :
    (s.setStack i v).inputs = s.inputs :=
  rfl
@[simp] theorem State.setStack_progLen (s : State) (i : Int) (v : Int) :
    (s.setStack i v).progLen = s.progLen :=
  rfl
@[simp] theorem State.setStack_localsAt (s : State) (i : Int) (v : Int) (k : Int) :
    (s.setStack i v).localsAt k = s.localsAt k :=
  rfl

end setStack

section setLocals

@[simp] theorem State.setLocals_params (s : State) (i : Int) (v : Int) :
    (s.setLocals i v).params = s.params :=
  rfl
@[simp] theorem State.setLocals_pc (s : State) (i : Int) (v : Int) : (s.setLocals i v).pc = s.pc :=
  rfl
@[simp] theorem State.setLocals_sp (s : State) (i : Int) (v : Int) : (s.setLocals i v).sp = s.sp :=
  rfl
@[simp] theorem State.setLocals_fp (s : State) (i : Int) (v : Int) : (s.setLocals i v).fp = s.fp :=
  rfl
@[simp] theorem State.setLocals_fsm (s : State) (i : Int) (v : Int) :
    (s.setLocals i v).fsm = s.fsm :=
  rfl
@[simp] theorem State.setLocals_cause (s : State) (i : Int) (v : Int) :
    (s.setLocals i v).cause = s.cause :=
  rfl
@[simp] theorem State.setLocals_stack (s : State) (i : Int) (v : Int) :
    (s.setLocals i v).stack = s.stack :=
  rfl
@[simp] theorem State.setLocals_locals (s : State) (i : Int) (v : Int) :
    (s.setLocals i v).locals = s.locals.write i.toNat v :=
  rfl
@[simp] theorem State.setLocals_out (s : State) (i : Int) (v : Int) :
    (s.setLocals i v).out = s.out :=
  rfl
@[simp] theorem State.setLocals_inputs (s : State) (i : Int) (v : Int) :
    (s.setLocals i v).inputs = s.inputs :=
  rfl
@[simp] theorem State.setLocals_progLen (s : State) (i : Int) (v : Int) :
    (s.setLocals i v).progLen = s.progLen :=
  rfl
@[simp] theorem State.setLocals_stackAt (s : State) (i : Int) (v : Int) (k : Int) :
    (s.setLocals i v).stackAt k = s.stackAt k :=
  rfl

end setLocals

section setPc

@[simp] theorem State.setPc_params (s : State) (t : Int) : (s.setPc t).params = s.params := rfl
@[simp] theorem State.setPc_pc (s : State) (t : Int) : (s.setPc t).pc = t := rfl
@[simp] theorem State.setPc_sp (s : State) (t : Int) : (s.setPc t).sp = s.sp := rfl
@[simp] theorem State.setPc_fp (s : State) (t : Int) : (s.setPc t).fp = s.fp := rfl
@[simp] theorem State.setPc_fsm (s : State) (t : Int) : (s.setPc t).fsm = s.fsm := rfl
@[simp] theorem State.setPc_cause (s : State) (t : Int) : (s.setPc t).cause = s.cause := rfl
@[simp] theorem State.setPc_stack (s : State) (t : Int) : (s.setPc t).stack = s.stack := rfl
@[simp] theorem State.setPc_locals (s : State) (t : Int) : (s.setPc t).locals = s.locals := rfl
@[simp] theorem State.setPc_out (s : State) (t : Int) : (s.setPc t).out = s.out := rfl
@[simp] theorem State.setPc_inputs (s : State) (t : Int) : (s.setPc t).inputs = s.inputs := rfl
@[simp] theorem State.setPc_progLen (s : State) (t : Int) : (s.setPc t).progLen = s.progLen := rfl
@[simp] theorem State.setPc_stackAt (s : State) (t : Int) (k : Int) :
    (s.setPc t).stackAt k = s.stackAt k :=
  rfl
@[simp] theorem State.setPc_localsAt (s : State) (t : Int) (k : Int) :
    (s.setPc t).localsAt k = s.localsAt k :=
  rfl

end setPc

section setSp

@[simp] theorem State.setSp_params (s : State) (v : Int) : (s.setSp v).params = s.params := rfl
@[simp] theorem State.setSp_pc (s : State) (v : Int) : (s.setSp v).pc = s.pc := rfl
@[simp] theorem State.setSp_sp (s : State) (v : Int) : (s.setSp v).sp = v := rfl
@[simp] theorem State.setSp_fp (s : State) (v : Int) : (s.setSp v).fp = s.fp := rfl
@[simp] theorem State.setSp_fsm (s : State) (v : Int) : (s.setSp v).fsm = s.fsm := rfl
@[simp] theorem State.setSp_cause (s : State) (v : Int) : (s.setSp v).cause = s.cause := rfl
@[simp] theorem State.setSp_stack (s : State) (v : Int) : (s.setSp v).stack = s.stack := rfl
@[simp] theorem State.setSp_locals (s : State) (v : Int) : (s.setSp v).locals = s.locals := rfl
@[simp] theorem State.setSp_out (s : State) (v : Int) : (s.setSp v).out = s.out := rfl
@[simp] theorem State.setSp_inputs (s : State) (v : Int) : (s.setSp v).inputs = s.inputs := rfl
@[simp] theorem State.setSp_progLen (s : State) (v : Int) : (s.setSp v).progLen = s.progLen := rfl
@[simp] theorem State.setSp_stackAt (s : State) (v : Int) (k : Int) :
    (s.setSp v).stackAt k = s.stackAt k :=
  rfl
@[simp] theorem State.setSp_localsAt (s : State) (v : Int) (k : Int) :
    (s.setSp v).localsAt k = s.localsAt k :=
  rfl

end setSp

section setFp

@[simp] theorem State.setFp_params (s : State) (v : Int) : (s.setFp v).params = s.params := rfl
@[simp] theorem State.setFp_pc (s : State) (v : Int) : (s.setFp v).pc = s.pc := rfl
@[simp] theorem State.setFp_sp (s : State) (v : Int) : (s.setFp v).sp = s.sp := rfl
@[simp] theorem State.setFp_fp (s : State) (v : Int) : (s.setFp v).fp = v := rfl
@[simp] theorem State.setFp_fsm (s : State) (v : Int) : (s.setFp v).fsm = s.fsm := rfl
@[simp] theorem State.setFp_cause (s : State) (v : Int) : (s.setFp v).cause = s.cause := rfl
@[simp] theorem State.setFp_stack (s : State) (v : Int) : (s.setFp v).stack = s.stack := rfl
@[simp] theorem State.setFp_locals (s : State) (v : Int) : (s.setFp v).locals = s.locals := rfl
@[simp] theorem State.setFp_out (s : State) (v : Int) : (s.setFp v).out = s.out := rfl
@[simp] theorem State.setFp_inputs (s : State) (v : Int) : (s.setFp v).inputs = s.inputs := rfl
@[simp] theorem State.setFp_progLen (s : State) (v : Int) : (s.setFp v).progLen = s.progLen := rfl
@[simp] theorem State.setFp_stackAt (s : State) (v : Int) (k : Int) :
    (s.setFp v).stackAt k = s.stackAt k :=
  rfl
@[simp] theorem State.setFp_localsAt (s : State) (v : Int) (k : Int) :
    (s.setFp v).localsAt k = s.localsAt k :=
  rfl

end setFp

section emit

@[simp] theorem State.emit_params (s : State) (v : Int) : (s.emit v).params = s.params := rfl
@[simp] theorem State.emit_pc (s : State) (v : Int) : (s.emit v).pc = s.pc := rfl
@[simp] theorem State.emit_sp (s : State) (v : Int) : (s.emit v).sp = s.sp := rfl
@[simp] theorem State.emit_fp (s : State) (v : Int) : (s.emit v).fp = s.fp := rfl
@[simp] theorem State.emit_fsm (s : State) (v : Int) : (s.emit v).fsm = s.fsm := rfl
@[simp] theorem State.emit_cause (s : State) (v : Int) : (s.emit v).cause = s.cause := rfl
@[simp] theorem State.emit_stack (s : State) (v : Int) : (s.emit v).stack = s.stack := rfl
@[simp] theorem State.emit_locals (s : State) (v : Int) : (s.emit v).locals = s.locals := rfl
@[simp] theorem State.emit_out (s : State) (v : Int) : (s.emit v).out = s.out ++ [v] := rfl
@[simp] theorem State.emit_inputs (s : State) (v : Int) : (s.emit v).inputs = s.inputs := rfl
@[simp] theorem State.emit_progLen (s : State) (v : Int) : (s.emit v).progLen = s.progLen := rfl
@[simp] theorem State.emit_stackAt (s : State) (v : Int) (k : Int) :
    (s.emit v).stackAt k = s.stackAt k :=
  rfl
@[simp] theorem State.emit_localsAt (s : State) (v : Int) (k : Int) :
    (s.emit v).localsAt k = s.localsAt k :=
  rfl

end emit

section advance

@[simp] theorem State.advance_params (s : State) (n : Nat) : (s.advance n).params = s.params := rfl
@[simp] theorem State.advance_pc (s : State) (n : Nat) : (s.advance n).pc = s.pc + n := rfl
@[simp] theorem State.advance_sp (s : State) (n : Nat) : (s.advance n).sp = s.sp := rfl
@[simp] theorem State.advance_fp (s : State) (n : Nat) : (s.advance n).fp = s.fp := rfl
@[simp] theorem State.advance_fsm (s : State) (n : Nat) : (s.advance n).fsm = s.fsm := rfl
@[simp] theorem State.advance_cause (s : State) (n : Nat) : (s.advance n).cause = s.cause := rfl
@[simp] theorem State.advance_stack (s : State) (n : Nat) : (s.advance n).stack = s.stack := rfl
@[simp] theorem State.advance_locals (s : State) (n : Nat) : (s.advance n).locals = s.locals := rfl
@[simp] theorem State.advance_out (s : State) (n : Nat) : (s.advance n).out = s.out := rfl
@[simp] theorem State.advance_inputs (s : State) (n : Nat) : (s.advance n).inputs = s.inputs := rfl
@[simp] theorem State.advance_progLen (s : State) (n : Nat) : (s.advance n).progLen = s.progLen :=
  rfl
@[simp] theorem State.advance_stackAt (s : State) (n : Nat) (k : Int) :
    (s.advance n).stackAt k = s.stackAt k :=
  rfl
@[simp] theorem State.advance_localsAt (s : State) (n : Nat) (k : Int) :
    (s.advance n).localsAt k = s.localsAt k :=
  rfl

end advance

section push

@[simp] theorem State.push_params (s : State) (v : Int) : (s.push v).params = s.params := rfl
@[simp] theorem State.push_pc (s : State) (v : Int) : (s.push v).pc = s.pc := rfl
@[simp] theorem State.push_sp (s : State) (v : Int) : (s.push v).sp = s.sp + 1 := rfl
@[simp] theorem State.push_fp (s : State) (v : Int) : (s.push v).fp = s.fp := rfl
@[simp] theorem State.push_fsm (s : State) (v : Int) : (s.push v).fsm = s.fsm := rfl
@[simp] theorem State.push_cause (s : State) (v : Int) : (s.push v).cause = s.cause := rfl
@[simp] theorem State.push_stack (s : State) (v : Int) :
    (s.push v).stack = s.stack.write (s.sp + 1).toNat v :=
  rfl
@[simp] theorem State.push_locals (s : State) (v : Int) : (s.push v).locals = s.locals := rfl
@[simp] theorem State.push_out (s : State) (v : Int) : (s.push v).out = s.out := rfl
@[simp] theorem State.push_inputs (s : State) (v : Int) : (s.push v).inputs = s.inputs := rfl
@[simp] theorem State.push_progLen (s : State) (v : Int) : (s.push v).progLen = s.progLen := rfl
@[simp] theorem State.push_localsAt (s : State) (v : Int) (k : Int) :
    (s.push v).localsAt k = s.localsAt k :=
  rfl

end push

section drop

@[simp] theorem State.drop_params (s : State) : (s.drop).params = s.params := rfl
@[simp] theorem State.drop_pc (s : State) : (s.drop).pc = s.pc := rfl
@[simp] theorem State.drop_sp (s : State) : (s.drop).sp = s.sp - 1 := rfl
@[simp] theorem State.drop_fp (s : State) : (s.drop).fp = s.fp := rfl
@[simp] theorem State.drop_fsm (s : State) : (s.drop).fsm = s.fsm := rfl
@[simp] theorem State.drop_cause (s : State) : (s.drop).cause = s.cause := rfl
@[simp] theorem State.drop_stack (s : State) : (s.drop).stack = s.stack := rfl
@[simp] theorem State.drop_locals (s : State) : (s.drop).locals = s.locals := rfl
@[simp] theorem State.drop_out (s : State) : (s.drop).out = s.out := rfl
@[simp] theorem State.drop_inputs (s : State) : (s.drop).inputs = s.inputs := rfl
@[simp] theorem State.drop_progLen (s : State) : (s.drop).progLen = s.progLen := rfl
@[simp] theorem State.drop_stackAt (s : State) (k : Int) : (s.drop).stackAt k = s.stackAt k := rfl
@[simp] theorem State.drop_localsAt (s : State) (k : Int) : (s.drop).localsAt k = s.localsAt k :=
  rfl

end drop

section start

@[simp] theorem State.start_params (s : State) : (s.start).params = s.params := rfl
@[simp] theorem State.start_pc (s : State) : (s.start).pc = s.pc := rfl
@[simp] theorem State.start_sp (s : State) : (s.start).sp = s.sp := rfl
@[simp] theorem State.start_fp (s : State) : (s.start).fp = s.fp := rfl
@[simp] theorem State.start_fsm (s : State) : (s.start).fsm = .running := rfl
@[simp] theorem State.start_cause (s : State) : (s.start).cause = s.cause := rfl
@[simp] theorem State.start_stack (s : State) : (s.start).stack = s.stack := rfl
@[simp] theorem State.start_locals (s : State) : (s.start).locals = s.locals := rfl
@[simp] theorem State.start_out (s : State) : (s.start).out = s.out := rfl
@[simp] theorem State.start_inputs (s : State) : (s.start).inputs = s.inputs := rfl
@[simp] theorem State.start_progLen (s : State) : (s.start).progLen = s.progLen := rfl
@[simp] theorem State.start_stackAt (s : State) (k : Int) : (s.start).stackAt k = s.stackAt k := rfl
@[simp] theorem State.start_localsAt (s : State) (k : Int) : (s.start).localsAt k = s.localsAt k :=
  rfl

end start

section stop

@[simp] theorem State.stop_params (s : State) (c : Cause) : (s.stop c).params = s.params := rfl
@[simp] theorem State.stop_pc (s : State) (c : Cause) : (s.stop c).pc = s.pc := rfl
@[simp] theorem State.stop_sp (s : State) (c : Cause) : (s.stop c).sp = s.sp := rfl
@[simp] theorem State.stop_fp (s : State) (c : Cause) : (s.stop c).fp = s.fp := rfl
@[simp] theorem State.stop_fsm (s : State) (c : Cause) : (s.stop c).fsm = .halted := rfl
@[simp] theorem State.stop_cause (s : State) (c : Cause) : (s.stop c).cause = c := rfl
@[simp] theorem State.stop_stack (s : State) (c : Cause) : (s.stop c).stack = s.stack := rfl
@[simp] theorem State.stop_locals (s : State) (c : Cause) : (s.stop c).locals = s.locals := rfl
@[simp] theorem State.stop_out (s : State) (c : Cause) : (s.stop c).out = s.out := rfl
@[simp] theorem State.stop_inputs (s : State) (c : Cause) : (s.stop c).inputs = s.inputs := rfl
@[simp] theorem State.stop_progLen (s : State) (c : Cause) : (s.stop c).progLen = s.progLen := rfl
@[simp] theorem State.stop_stackAt (s : State) (c : Cause) (k : Int) :
    (s.stop c).stackAt k = s.stackAt k :=
  rfl
@[simp] theorem State.stop_localsAt (s : State) (c : Cause) (k : Int) :
    (s.stop c).localsAt k = s.localsAt k :=
  rfl

end stop

section faultedWith

@[simp] theorem State.faultedWith_params (s : State) (c : Cause) :
    (s.faultedWith c).params = s.params :=
  rfl
@[simp] theorem State.faultedWith_pc (s : State) (c : Cause) : (s.faultedWith c).pc = s.pc := rfl
@[simp] theorem State.faultedWith_sp (s : State) (c : Cause) : (s.faultedWith c).sp = s.sp := rfl
@[simp] theorem State.faultedWith_fp (s : State) (c : Cause) : (s.faultedWith c).fp = s.fp := rfl
@[simp] theorem State.faultedWith_fsm (s : State) (c : Cause) : (s.faultedWith c).fsm = .faulted :=
  rfl
@[simp] theorem State.faultedWith_cause (s : State) (c : Cause) : (s.faultedWith c).cause = c := rfl
@[simp] theorem State.faultedWith_stack (s : State) (c : Cause) :
    (s.faultedWith c).stack = s.stack :=
  rfl
@[simp] theorem State.faultedWith_locals (s : State) (c : Cause) :
    (s.faultedWith c).locals = s.locals :=
  rfl
@[simp] theorem State.faultedWith_out (s : State) (c : Cause) : (s.faultedWith c).out = s.out := rfl
@[simp] theorem State.faultedWith_inputs (s : State) (c : Cause) :
    (s.faultedWith c).inputs = s.inputs :=
  rfl
@[simp] theorem State.faultedWith_progLen (s : State) (c : Cause) :
    (s.faultedWith c).progLen = s.progLen :=
  rfl
@[simp] theorem State.faultedWith_stackAt (s : State) (c : Cause) (k : Int) :
    (s.faultedWith c).stackAt k = s.stackAt k :=
  rfl
@[simp] theorem State.faultedWith_localsAt (s : State) (c : Cause) (k : Int) :
    (s.faultedWith c).localsAt k = s.localsAt k :=
  rfl

end faultedWith

section consume

@[simp] theorem State.consume_params (s : State) : (s.consume).params = s.params := rfl
@[simp] theorem State.consume_pc (s : State) : (s.consume).pc = s.pc := rfl
@[simp] theorem State.consume_sp (s : State) : (s.consume).sp = s.sp := rfl
@[simp] theorem State.consume_fp (s : State) : (s.consume).fp = s.fp := rfl
@[simp] theorem State.consume_fsm (s : State) : (s.consume).fsm = s.fsm := rfl
@[simp] theorem State.consume_cause (s : State) : (s.consume).cause = s.cause := rfl
@[simp] theorem State.consume_stack (s : State) : (s.consume).stack = s.stack := rfl
@[simp] theorem State.consume_locals (s : State) : (s.consume).locals = s.locals := rfl
@[simp] theorem State.consume_out (s : State) : (s.consume).out = s.out := rfl
@[simp] theorem State.consume_inputs (s : State) : (s.consume).inputs = s.inputs.tail := rfl
@[simp] theorem State.consume_progLen (s : State) : (s.consume).progLen = s.progLen := rfl
@[simp] theorem State.consume_stackAt (s : State) (k : Int) : (s.consume).stackAt k = s.stackAt k :=
  rfl
@[simp] theorem State.consume_localsAt (s : State) (k : Int) :
    (s.consume).localsAt k = s.localsAt k :=
  rfl

end consume

end Sys2Proof.Machine
end

