-- ==== Sys2Proof/Laws/Ops.lean ====
section
/-! SUPPORT. What each shared operation can do, said once: if it answers a next state, then one of
these cases holds. -/

namespace Sys2Proof.Machine

theorem raise_eq (s : State) (x : Cause) : raise s x = .next (s.faultedWith x) := rfl

theorem require_pos {c : Prop} [Decidable c] (h : c) (x : Cause) (s : State) (k : Result) :
    require c x s k = k := if_pos h

theorem require_neg {c : Prop} [Decidable c] (h : ¬ c) (x : Cause) (s : State) (k : Result) :
    require c x s k = .next (s.faultedWith x) := if_neg h

/-- `require` goes on or faults. -/
theorem require_eq_next {c : Prop} [Decidable c] {x : Cause} {s t : State} {k : Result} :
    require c x s k = .next t ↔ (c ∧ k = .next t) ∨ (¬ c ∧ t = s.faultedWith x) := by
  by_cases h : c
  · rw [require_pos h]; simp [h]
  · rw [require_neg h]; simp [h, eq_comm]

/-- `requireRoom k` goes on if `k` words fit, or raises StackOverflow (R91). -/
theorem requireRoom_eq_next {k : Nat} {s t : State} {r : Result} :
    requireRoom k s r = .next t ↔
      (s.sp + k ≤ (s.params.stackCap : Int) - 1 ∧ r = .next t) ∨
      (¬ s.sp + k ≤ (s.params.stackCap : Int) - 1 ∧ t = s.faultedWith .stackOverflow) :=
  require_eq_next

/-- `requireDepth k` goes on if `k` words are on the stack, or raises StackUnderflow (R92). -/
theorem requireDepth_eq_next {k : Nat} {s t : State} {r : Result} :
    requireDepth k s r = .next t ↔
      ((k : Int) - 1 ≤ s.sp ∧ r = .next t) ∨
      (¬ (k : Int) - 1 ≤ s.sp ∧ t = s.faultedWith .stackUnderflow) :=
  require_eq_next

theorem ltWord_eq (a b : Int) : ltWord a b = if a < b then 1 else 0 := by
  simp only [ltWord, boolWord, decide_eq_true_eq]

theorem eqWord_eq (a b : Int) : eqWord a b = if a = b then 1 else 0 := by
  simp only [eqWord, boolWord, decide_eq_true_eq]

theorem testsTrue_iff (v : Int) : testsTrue v = true ↔ v = 1 := by simp [testsTrue]

theorem testsFalse_iff (v : Int) : testsFalse v = true ↔ v = 0 := by simp [testsFalse]

/-- Every way a `binaryOp` ends (R112 to R116). -/
theorem binaryOp_eq_next {f : Int → Int → Int} {s t : State} :
    binaryOp f s = .next t ↔
      (1 ≤ s.sp ∧ t = { s with
        pc := s.pc + 1, sp := s.sp - 1,
        stack := s.stack.write (s.sp - 1).toNat (f (s.stackAt (s.sp - 1)) (s.stackAt s.sp)) }) ∨
      (¬ 1 ≤ s.sp ∧ t = s.faultedWith .stackUnderflow) := by
  unfold binaryOp
  rw [requireDepth_eq_next, Host.Outcome.next.injEq, eq_comm (b := t)]
  rfl

/-- Every way a `branchIf` ends (R122, R123). -/
theorem branchIf_eq_next {test : Int → Bool} {a1 : Int} {s t : State} :
    branchIf test a1 s = .next t ↔
      (0 ≤ s.sp ∧ test (s.stackAt s.sp) = true ∧ s.legalTarget a1 ∧
        t = { s with pc := a1, sp := s.sp - 1 }) ∨
      (0 ≤ s.sp ∧ test (s.stackAt s.sp) = true ∧ ¬ s.legalTarget a1 ∧
        t = s.faultedWith .outOfBoundsJump) ∨
      (0 ≤ s.sp ∧ test (s.stackAt s.sp) = false ∧ t = { s with pc := s.pc + 2, sp := s.sp - 1 }) ∨
      (¬ 0 ≤ s.sp ∧ t = s.faultedWith .stackUnderflow) := by
  unfold branchIf
  rw [requireDepth_eq_next]
  have hd : ((1 : Nat) : Int) - 1 ≤ s.sp ↔ 0 ≤ s.sp := by simp
  rw [hd]
  change (0 ≤ s.sp ∧ (if test (s.stackAt s.sp) = true then _ else _) = _ ∨ _) ↔ _
  cases ht : test (s.stackAt s.sp)
  · rw [if_neg Bool.false_ne_true, Host.Outcome.next.injEq, eq_comm (b := t)]
    simp only [Bool.false_eq_true, false_and, and_false, false_or, true_and]; rfl
  · rw [if_pos rfl, require_eq_next, Host.Outcome.next.injEq, eq_comm (b := t)]
    simp only [Bool.true_eq_false, false_and, and_false, false_or, true_and, and_or_left, or_assoc]
    rfl

/-- Every way a `storeLocals` ends (R132, R134). -/
theorem storeLocals_eq_next {i : Int} {s t : State} :
    storeLocals i s = .next t ↔
      (0 ≤ s.sp ∧ s.localsSlot i ∧ t = { s with
        pc := s.pc + 2, sp := s.sp - 1, locals := s.locals.write i.toNat (s.stackAt s.sp) }) ∨
      (0 ≤ s.sp ∧ ¬ s.localsSlot i ∧ t = s.faultedWith .outOfBoundsJump) ∨
      (¬ 0 ≤ s.sp ∧ t = s.faultedWith .stackUnderflow) := by
  unfold storeLocals
  rw [requireDepth_eq_next, require_eq_next]
  have hd : ((1 : Nat) : Int) - 1 ≤ s.sp ↔ 0 ≤ s.sp := by simp
  rw [hd, Host.Outcome.next.injEq, eq_comm (b := t)]
  constructor
  · rintro (⟨h, ⟨hl, e⟩ | ⟨hl, e⟩⟩ | h)
    exacts [.inl ⟨h, hl, e⟩, .inr (.inl ⟨h, hl, e⟩), .inr (.inr h)]
  · rintro (⟨h, hl, e⟩ | ⟨h, hl, e⟩ | h)
    exacts [.inl ⟨h, .inl ⟨hl, e⟩⟩, .inl ⟨h, .inr ⟨hl, e⟩⟩, .inr h]

/-- Reset ends in `Ready` or in a configuration error, and otherwise leaves the values of R40. -/
theorem construct_fields (p : Params) (inputs : List HostInput) :
    (construct p inputs).params = p ∧ (construct p inputs).pc = p.startPc ∧
    (construct p inputs).sp = -1 ∧ (construct p inputs).fp = 0 ∧
    (construct p inputs).stack = [] ∧ (construct p inputs).locals = [] ∧
    (construct p inputs).out = [] ∧ (construct p inputs).inputs = inputs ∧
    ((0 ≤ p.startPc ∧ p.startPc < p.prog.length ∧
        (construct p inputs).fsm = .ready ∧ (construct p inputs).cause = .none) ∨
      (¬ (0 ≤ p.startPc ∧ p.startPc < p.prog.length) ∧
        (construct p inputs).fsm = .faulted ∧
        (construct p inputs).cause = .configurationError)) := by
  unfold construct
  split
  · rename_i h; exact ⟨rfl, rfl, rfl, rfl, rfl, rfl, rfl, rfl, .inl ⟨h.1, h.2, rfl, rfl⟩⟩
  · rename_i h; exact ⟨rfl, rfl, rfl, rfl, rfl, rfl, rfl, rfl, .inr ⟨h, rfl, rfl⟩⟩

/-- `State.reset` is the reset of R190 with no program loaded. -/
theorem reset_eq_construct : State.reset = construct Config.unloaded [] := rfl

end Sys2Proof.Machine
end

