-- ==== Sys2Proof/Laws/PerInstr.lean ====
section
/-! SUPPORT. Facts about every instruction as syntax, one lemma per constructor. -/

/-- The operand words of an instruction, read back by its mnemonic, give the instruction and the words
after it (R71, R72). -/
def Sys2Proof.Laws.OperandsReadBack.Statement (i : Sys2Proof.Instr) : Prop :=
  ∀ rest : List Int,
    i.mnemonic.withOperands (i.operands ++ rest) = some (i, rest)

/-- An instruction has as many operands as its mnemonic says (R72). -/
def Sys2Proof.Laws.OperandCount.Statement (i : Sys2Proof.Instr) : Prop :=
  i.operands.length = i.mnemonic.operandCount

theorem Sys2Proof.Laws.OperandsReadBack.const (a1 : Int) :
    Sys2Proof.Laws.OperandsReadBack.Statement (.const a1) := fun _ => rfl

theorem Sys2Proof.Laws.OperandsReadBack.add :
    Sys2Proof.Laws.OperandsReadBack.Statement (.add) := fun _ => rfl

theorem Sys2Proof.Laws.OperandsReadBack.sub :
    Sys2Proof.Laws.OperandsReadBack.Statement (.sub) := fun _ => rfl

theorem Sys2Proof.Laws.OperandsReadBack.mul :
    Sys2Proof.Laws.OperandsReadBack.Statement (.mul) := fun _ => rfl

theorem Sys2Proof.Laws.OperandsReadBack.lt :
    Sys2Proof.Laws.OperandsReadBack.Statement (.lt) := fun _ => rfl

theorem Sys2Proof.Laws.OperandsReadBack.eq :
    Sys2Proof.Laws.OperandsReadBack.Statement (.eq) := fun _ => rfl

theorem Sys2Proof.Laws.OperandsReadBack.jmp (a1 : Int) :
    Sys2Proof.Laws.OperandsReadBack.Statement (.jmp a1) := fun _ => rfl

theorem Sys2Proof.Laws.OperandsReadBack.jmpt (a1 : Int) :
    Sys2Proof.Laws.OperandsReadBack.Statement (.jmpt a1) := fun _ => rfl

theorem Sys2Proof.Laws.OperandsReadBack.jmpf (a1 : Int) :
    Sys2Proof.Laws.OperandsReadBack.Statement (.jmpf a1) := fun _ => rfl

theorem Sys2Proof.Laws.OperandsReadBack.load (a1 : Int) :
    Sys2Proof.Laws.OperandsReadBack.Statement (.load a1) := fun _ => rfl

theorem Sys2Proof.Laws.OperandsReadBack.store (a1 : Int) :
    Sys2Proof.Laws.OperandsReadBack.Statement (.store a1) := fun _ => rfl

theorem Sys2Proof.Laws.OperandsReadBack.gload :
    Sys2Proof.Laws.OperandsReadBack.Statement (.gload) := fun _ => rfl

theorem Sys2Proof.Laws.OperandsReadBack.gstore (a1 : Int) :
    Sys2Proof.Laws.OperandsReadBack.Statement (.gstore a1) := fun _ => rfl

theorem Sys2Proof.Laws.OperandsReadBack.call (a1 a2 : Int) :
    Sys2Proof.Laws.OperandsReadBack.Statement (.call a1 a2) := fun _ => rfl

theorem Sys2Proof.Laws.OperandsReadBack.ret :
    Sys2Proof.Laws.OperandsReadBack.Statement (.ret) := fun _ => rfl

theorem Sys2Proof.Laws.OperandsReadBack.pop :
    Sys2Proof.Laws.OperandsReadBack.Statement (.pop) := fun _ => rfl

theorem Sys2Proof.Laws.OperandsReadBack.print :
    Sys2Proof.Laws.OperandsReadBack.Statement (.print) := fun _ => rfl

theorem Sys2Proof.Laws.OperandsReadBack.halt :
    Sys2Proof.Laws.OperandsReadBack.Statement (.halt) := fun _ => rfl

theorem Sys2Proof.Laws.OperandCount.const (a1 : Int) :
    Sys2Proof.Laws.OperandCount.Statement (.const a1) := rfl

theorem Sys2Proof.Laws.OperandCount.add :
    Sys2Proof.Laws.OperandCount.Statement (.add) := rfl

theorem Sys2Proof.Laws.OperandCount.sub :
    Sys2Proof.Laws.OperandCount.Statement (.sub) := rfl

theorem Sys2Proof.Laws.OperandCount.mul :
    Sys2Proof.Laws.OperandCount.Statement (.mul) := rfl

theorem Sys2Proof.Laws.OperandCount.lt :
    Sys2Proof.Laws.OperandCount.Statement (.lt) := rfl

theorem Sys2Proof.Laws.OperandCount.eq :
    Sys2Proof.Laws.OperandCount.Statement (.eq) := rfl

theorem Sys2Proof.Laws.OperandCount.jmp (a1 : Int) :
    Sys2Proof.Laws.OperandCount.Statement (.jmp a1) := rfl

theorem Sys2Proof.Laws.OperandCount.jmpt (a1 : Int) :
    Sys2Proof.Laws.OperandCount.Statement (.jmpt a1) := rfl

theorem Sys2Proof.Laws.OperandCount.jmpf (a1 : Int) :
    Sys2Proof.Laws.OperandCount.Statement (.jmpf a1) := rfl

theorem Sys2Proof.Laws.OperandCount.load (a1 : Int) :
    Sys2Proof.Laws.OperandCount.Statement (.load a1) := rfl

theorem Sys2Proof.Laws.OperandCount.store (a1 : Int) :
    Sys2Proof.Laws.OperandCount.Statement (.store a1) := rfl

theorem Sys2Proof.Laws.OperandCount.gload :
    Sys2Proof.Laws.OperandCount.Statement (.gload) := rfl

theorem Sys2Proof.Laws.OperandCount.gstore (a1 : Int) :
    Sys2Proof.Laws.OperandCount.Statement (.gstore a1) := rfl

theorem Sys2Proof.Laws.OperandCount.call (a1 a2 : Int) :
    Sys2Proof.Laws.OperandCount.Statement (.call a1 a2) := rfl

theorem Sys2Proof.Laws.OperandCount.ret :
    Sys2Proof.Laws.OperandCount.Statement (.ret) := rfl

theorem Sys2Proof.Laws.OperandCount.pop :
    Sys2Proof.Laws.OperandCount.Statement (.pop) := rfl

theorem Sys2Proof.Laws.OperandCount.print :
    Sys2Proof.Laws.OperandCount.Statement (.print) := rfl

theorem Sys2Proof.Laws.OperandCount.halt :
    Sys2Proof.Laws.OperandCount.Statement (.halt) := rfl
end

