-- ==== Sys2Proof/Laws/Step.lean ====
section
/-! SUPPORT. What fetching, decoding and one step can do, said once. -/

namespace Sys2Proof

theorem OpcodeMap.words_eq (o : OpcodeMap) : o.words = Mnemonic.all.map o.number := rfl

theorem Mnemonic.mem_all (m : Mnemonic) : m ∈ Mnemonic.all := by cases m <;> decide

/-- The decoder finds a mnemonic only by its whole opcode number (R75). -/
theorem decodeOpcode_some {o : OpcodeMap} {w : Int} {m : Mnemonic} (h : decodeOpcode o w = some m) :
    o.number m = w := by
  simpa using List.find?_some h

/-- The decoder rejects exactly the words that are no opcode number (R75, R77). -/
theorem decodeOpcode_none {o : OpcodeMap} {w : Int} : decodeOpcode o w = none ↔ w ∉ o.words := by
  rw [OpcodeMap.words_eq]
  simp only [decodeOpcode, List.find?_eq_none, List.mem_map, decide_eq_true_eq]
  constructor
  · rintro h ⟨m, hm, e⟩; exact h m hm e
  · rintro h m hm e; exact h ⟨m, hm, e⟩

/-- An injective numbering is read back (R74). -/
theorem decodeOpcode_number {o : OpcodeMap} (h : o.words.Nodup) (m : Mnemonic) :
    decodeOpcode o (o.number m) = some m := by
  cases hd : decodeOpcode o (o.number m) with
  | none =>
    exact absurd (List.mem_map_of_mem (f := o.number) m.mem_all)
      (o.words_eq ▸ decodeOpcode_none.mp hd)
  | some m' =>
    rw [OpcodeMap.words_eq] at h
    exact congrArg some (List.inj_on_of_nodup_map h m'.mem_all m.mem_all (decodeOpcode_some hd))

/-- What the operand fetch reads is the instruction's own operands, then the words left over. -/
theorem Mnemonic.withOperands_some {m : Mnemonic} {ws rest : List Int} {i : Instr}
    (h : m.withOperands ws = some (i, rest)) : i.mnemonic = m ∧ ws = i.operands ++ rest := by
  cases m <;> rcases ws with _ | ⟨a, _ | ⟨b, ws⟩⟩ <;>
    simp_all [Mnemonic.withOperands] <;> (obtain ⟨rfl, rfl⟩ := h) <;>
    simp [Instr.mnemonic, Instr.operands]

/-- The operand fetch fails exactly when an operand word is missing (R96). -/
theorem Mnemonic.withOperands_none {m : Mnemonic} {ws : List Int} :
    m.withOperands ws = none ↔ ws.length < m.operandCount := by
  cases m <;> rcases ws with _ | ⟨a, _ | ⟨b, ws⟩⟩ <;>
    simp [Mnemonic.withOperands, Mnemonic.operandCount]

/-- The table word's instruction is the one its words decode to. -/
theorem decodeTableWord_of_ok {nbits w : Nat} {i : Instr} {rest : List Int}
    (h : decodeWords Config.defaultOpc
      (wordsOfBits Config.defaultW maxInstrWords (w % 2 ^ nbits)) = .ok i rest) :
    decodeTableWord nbits w = some i := by
  unfold decodeTableWord; rw [h]; rfl

theorem Instr.mnemonic_operandCount (i : Instr) : i.mnemonic.operandCount = i.operands.length := by
  cases i <;> rfl

end Sys2Proof

namespace Sys2Proof.Machine

@[simp] theorem fetch_consume (s : State) : fetch s.consume = fetch s := rfl

@[simp] theorem terminal_consume (s : State) : s.consume.terminal = s.terminal := rfl

/-- Every way an engine step ends (R95). -/
theorem engineStep_cases (runEn cancel : Bool) (s : State) :
    (s.terminal = true ∧ engineStep runEn cancel s = .next s) ∨
    (s.terminal = false ∧ runEn = false ∧ engineStep runEn cancel s = .next s) ∨
    (s.terminal = false ∧ runEn = true ∧ cancel = true ∧
      engineStep runEn cancel s = .next (s.start.stop .cancelled)) ∨
    (s.terminal = false ∧ runEn = true ∧ cancel = false ∧ (s.pc < 0 ∨ s.progLen < s.pc) ∧
      engineStep runEn cancel s = .fault .fetchOutsideProgram) ∨
    (s.terminal = false ∧ runEn = true ∧ cancel = false ∧ 0 ≤ s.pc ∧ s.pc ≤ s.progLen ∧
      engineStep runEn cancel s = runFetched (fetch s) s.start) := by
  unfold engineStep
  by_cases h : s.pc < 0 ∨ s.progLen < s.pc
  · rw [if_pos h]
    cases s.terminal <;> cases runEn <;> cases cancel <;> simp [h]
  · rw [if_neg h]
    have h0 : 0 ≤ s.pc := by omega
    have hN : s.pc ≤ s.progLen := by omega
    cases s.terminal <;> cases runEn <;> cases cancel <;> simp [h0, hN]

/-- Every way the host's `construct` ends (R197, R201). -/
theorem hostConstruct_cases (p : Params) (s : State) :
    (¬ p.valid ∧ hostConstruct p s = .refused .parametersOutOfRange) ∨
    (p.valid ∧ s.terminal = false ∧ p ≠ s.params ∧
      hostConstruct p s = .refused .parametersChangedDuringRun) ∨
    (p.valid ∧ (s.terminal = true ∨ p = s.params) ∧
      hostConstruct p s = .next (construct p s.inputs)) := by
  unfold hostConstruct
  by_cases hv : p.valid
  · by_cases hc : s.terminal = false ∧ p ≠ s.params
    · exact .inr (.inl ⟨hv, hc.1, hc.2, by rw [if_neg (not_not.mpr hv), if_pos hc]⟩)
    · refine .inr (.inr ⟨hv, ?_, by rw [if_neg (not_not.mpr hv), if_neg hc]⟩)
      rcases Bool.eq_false_or_eq_true s.terminal with h | h
      · exact .inl h
      · exact .inr (by_contra fun hp => hc ⟨h, hp⟩)
  · exact .inl ⟨hv, if_pos hv⟩

/-- A step under a `clock` input is a step of the engine on the state with that input taken. -/
theorem step_clock {s : State} {runEn cancel : Bool} (h : s.nextInput = .clock runEn cancel) :
    step s = engineStep runEn cancel s.consume := by
  unfold step; rw [h]; rfl

/-- A step under `rst` (R191). -/
theorem step_rst {s : State} (h : s.nextInput = .rst) :
    step s = .next (construct s.params s.inputs.tail) := by
  unfold step; rw [h]; rfl

/-- A step under `construct` (R190). -/
theorem step_construct {s : State} {p : Params} (h : s.nextInput = .construct p) :
    step s = hostConstruct p s.consume := by
  unfold step; rw [h]; rfl

/-- A fetch inside the program finds an opcode word. -/
theorem fetch_ne_endOfProgram {s : State} (h : s.legalTarget s.pc) :
    fetch s ≠ .endOfProgram := by
  obtain ⟨h0, hN⟩ := h
  unfold State.progLen at hN
  have hlt : s.pc.toNat < s.params.prog.length := by omega
  unfold fetch
  rw [List.drop_eq_getElem_cons hlt]
  unfold decodeWords
  dsimp only
  split
  · simp
  · split <;> simp

/-- A step that fetches runs what the fetch found. -/
theorem step_fetches {s : State} (h : Fetches s) :
    step s = runFetched (fetch s) s.consume.start := by
  obtain ⟨ht, hi, h0, hN⟩ := h
  rw [step_clock hi]
  unfold engineStep
  rw [terminal_consume, ht]
  have hpc : ¬ (s.consume.pc < 0 ∨ s.consume.progLen < s.consume.pc) := by
    simp only [State.consume_pc, State.consume_progLen]; omega
  simp only [Bool.false_eq_true, if_false, Bool.true_eq_false, hpc, fetch_consume]

/-- A run goes on from the state its first step reaches. -/
theorem runInputs_cons {s t : State} {x : HostInput} {xs : List HostInput}
    (h : step { s with inputs := x :: xs } = .next t) (ht : t.inputs = xs) :
    runInputs s (x :: xs) = runInputs t xs := by
  have h' : Sys2Proof.core.step { s with inputs := x :: xs } = .next t := h
  subst ht
  simp only [runInputs, List.length_cons, Host.Core.run]
  rw [h']

/-- A run whose first step faults, faults so. -/
theorem runInputs_cons_fault {s : State} {x : HostInput} {xs : List HostInput} {r : Fault}
    (h : step { s with inputs := x :: xs } = .fault r) : runInputs s (x :: xs) = .fault r := by
  have h' : Sys2Proof.core.step { s with inputs := x :: xs } = .fault r := h
  simp only [runInputs, List.length_cons, Host.Core.run]
  rw [h']
  rfl

/-- A run whose first step is refused, is refused so. -/
theorem runInputs_cons_refused {s : State} {x : HostInput} {xs : List HostInput} {r : Refusal}
    (h : step { s with inputs := x :: xs } = .refused r) : runInputs s (x :: xs) = .refused r := by
  have h' : Sys2Proof.core.step { s with inputs := x :: xs } = .refused r := h
  simp only [runInputs, List.length_cons, Host.Core.run]
  rw [h']
  rfl

end Sys2Proof.Machine
end

