-- ==== Sys2Proof/Laws/Exec.lean ====
section
/-! SUPPORT. Everything an instruction and a step can do, said once: an instruction takes its effect or
raises one of three faults (`exec_cases`), and a step is one of seven moves (`step_cases`). -/

namespace Sys2Proof.Machine

/-- `t` is `s` with the effect of `i`, and the checks of `i` pass in `s`. -/
def Effect (i : Instr) (s t : State) : Prop :=
  match i with
  | .const a1 => s.sp + 1 ≤ (s.params.stackCap : Int) - 1 ∧
      t = { s with pc := s.pc + 2, sp := s.sp + 1, stack := s.stack.write (s.sp + 1).toNat a1 }
  | .add => 1 ≤ s.sp ∧ t = { s with
      pc := s.pc + 1, sp := s.sp - 1, stack := s.stack.write (s.sp - 1).toNat
        (wrap s.params.w (s.stackAt (s.sp - 1) + s.stackAt s.sp)) }
  | .sub => 1 ≤ s.sp ∧ t = { s with
      pc := s.pc + 1, sp := s.sp - 1, stack := s.stack.write (s.sp - 1).toNat
        (wrap s.params.w (s.stackAt (s.sp - 1) - s.stackAt s.sp)) }
  | .mul => 1 ≤ s.sp ∧ t = { s with
      pc := s.pc + 1, sp := s.sp - 1, stack := s.stack.write (s.sp - 1).toNat
        (wrap s.params.w (s.stackAt (s.sp - 1) * s.stackAt s.sp)) }
  | .lt => 1 ≤ s.sp ∧ t = { s with
      pc := s.pc + 1, sp := s.sp - 1, stack := s.stack.write (s.sp - 1).toNat
        (ltWord (s.stackAt (s.sp - 1)) (s.stackAt s.sp)) }
  | .eq => 1 ≤ s.sp ∧ t = { s with
      pc := s.pc + 1, sp := s.sp - 1, stack := s.stack.write (s.sp - 1).toNat
        (eqWord (s.stackAt s.sp) (s.stackAt (s.sp - 1))) }
  | .jmp a1 => s.legalTarget a1 ∧ t = { s with pc := a1 }
  | .jmpt a1 => 0 ≤ s.sp ∧
      (s.stackAt s.sp = 1 ∧ s.legalTarget a1 ∧ t = { s with pc := a1, sp := s.sp - 1 } ∨
        s.stackAt s.sp ≠ 1 ∧ t = { s with pc := s.pc + 2, sp := s.sp - 1 })
  | .jmpf a1 => 0 ≤ s.sp ∧
      (s.stackAt s.sp = 0 ∧ s.legalTarget a1 ∧ t = { s with pc := a1, sp := s.sp - 1 } ∨
        s.stackAt s.sp ≠ 0 ∧ t = { s with pc := s.pc + 2, sp := s.sp - 1 })
  | .load a1 => s.liveSlot (s.fp + a1) ∧ s.sp + 1 ≤ (s.params.stackCap : Int) - 1 ∧ t = { s with
      pc := s.pc + 2, sp := s.sp + 1
      stack := s.stack.write (s.sp + 1).toNat (s.stackAt (s.fp + a1)) }
  | .store a1 => 0 ≤ s.sp ∧ s.localsSlot (s.fp + a1) ∧ t = { s with
      pc := s.pc + 2, sp := s.sp - 1
      locals := s.locals.write (s.fp + a1).toNat (s.stackAt s.sp) }
  | .gload => 0 ≤ s.sp ∧ s.localsSlot (s.stackAt s.sp) ∧ t = { s with
      pc := s.pc + 1, stack := s.stack.write s.sp.toNat (s.localsAt (s.stackAt s.sp)) }
  | .gstore a1 => 0 ≤ s.sp ∧ s.localsSlot a1 ∧ t = { s with
      pc := s.pc + 2, sp := s.sp - 1, locals := s.locals.write a1.toNat (s.stackAt s.sp) }
  | .call a1 a2 => s.legalTarget a1 ∧ s.sp + 3 ≤ (s.params.stackCap : Int) - 1 ∧ t = { s with
      pc := a1, sp := s.sp + 3, fp := s.sp + 3
      stack := ((s.stack.write (s.sp + 1).toNat a2).write (s.sp + 2).toNat s.fp).write
        (s.sp + 3).toNat (s.pc + 3) }
  | .ret => 0 ≤ s.sp ∧ 2 ≤ s.fp ∧ s.fp ≤ s.sp - 1 ∧ 0 ≤ s.stackAt (s.fp - 2) ∧
      -1 ≤ s.fp - 3 - s.stackAt (s.fp - 2) ∧ s.legalReturn (s.stackAt s.fp) ∧ t = { s with
        pc := s.stackAt s.fp, sp := s.fp - 2 - s.stackAt (s.fp - 2), fp := s.stackAt (s.fp - 1)
        stack := s.stack.write (s.fp - 2 - s.stackAt (s.fp - 2)).toNat (s.stackAt s.sp) }
  | .pop => 0 ≤ s.sp ∧ t = { s with pc := s.pc + 1, sp := s.sp - 1 }
  | .print => 0 ≤ s.sp ∧ t = { s with
      pc := s.pc + 1, sp := s.sp - 1, out := s.out ++ [s.stackAt s.sp] }
  | .halt => t = { s with pc := s.pc + 1, fsm := .halted, cause := .haltInstruction }

/-- `t` is `s` after one of the three faults an instruction's own checks raise (R162 to R164). -/
def CheckFailed (s t : State) : Prop :=
  ∃ c, (c = .stackOverflow ∨ c = .stackUnderflow ∨ c = .outOfBoundsJump) ∧ t = s.faultedWith c

/-- Everything an instruction can do. -/
theorem exec_cases {i : Instr} {s t : State} (h : exec i s = .next t) :
    CheckFailed s t ∨ Effect i s t := by
  have hd : ((1 : Nat) : Int) - 1 ≤ s.sp ↔ 0 ≤ s.sp := by simp
  cases i
  all_goals simp only [exec, execConst, execAdd, execSub, execMul, execLt, execEq, execJmp,
    execJmpt, execJmpf, execLoad, execStore, execGload, execGstore, execCall, execRet, execPop,
    execPrint, execHalt, requireRoom_eq_next, requireDepth_eq_next, require_eq_next,
    binaryOp_eq_next, branchIf_eq_next, storeLocals_eq_next, Host.Outcome.next.injEq, hd] at h
  case const a1 =>
    rcases h with ⟨h, e⟩ | ⟨-, e⟩
    · exact .inr ⟨h, e.symm⟩
    · exact .inl ⟨_, by simp, e⟩
  case jmpt a1 =>
    rcases h with ⟨h, hv, hl, e⟩ | ⟨h, hv, hl, e⟩ | ⟨h, hv, e⟩ | ⟨h, e⟩
    · exact .inr ⟨h, .inl ⟨by simpa [testsTrue] using hv, hl, e⟩⟩
    · exact .inl ⟨_, by simp, e⟩
    · exact .inr ⟨h, .inr ⟨by simpa [testsTrue] using hv, e⟩⟩
    · exact .inl ⟨_, by simp, e⟩
  case jmpf a1 =>
    rcases h with ⟨h, hv, hl, e⟩ | ⟨h, hv, hl, e⟩ | ⟨h, hv, e⟩ | ⟨h, e⟩
    · exact .inr ⟨h, .inl ⟨by simpa [testsFalse] using hv, hl, e⟩⟩
    · exact .inl ⟨_, by simp, e⟩
    · exact .inr ⟨h, .inr ⟨by simpa [testsFalse] using hv, e⟩⟩
    · exact .inl ⟨_, by simp, e⟩
  case jmp a1 =>
    rcases h with ⟨h, e⟩ | ⟨-, e⟩
    · exact .inr ⟨h, e.symm⟩
    · exact .inl ⟨_, by simp, e⟩
  case load a1 =>
    rcases h with ⟨h, ⟨h', e⟩ | ⟨-, e⟩⟩ | ⟨-, e⟩
    · exact .inr ⟨h, h', e.symm⟩
    · exact .inl ⟨_, by simp, e⟩
    · exact .inl ⟨_, by simp, e⟩
  case store a1 =>
    rcases h with ⟨h, h', e⟩ | ⟨-, -, e⟩ | ⟨-, e⟩
    · exact .inr ⟨h, h', e⟩
    · exact .inl ⟨_, by simp, e⟩
    · exact .inl ⟨_, by simp, e⟩
  case gstore a1 =>
    rcases h with ⟨h, h', e⟩ | ⟨-, -, e⟩ | ⟨-, e⟩
    · exact .inr ⟨h, h', e⟩
    · exact .inl ⟨_, by simp, e⟩
    · exact .inl ⟨_, by simp, e⟩
  case gload =>
    rcases h with ⟨h, ⟨h', e⟩ | ⟨-, e⟩⟩ | ⟨-, e⟩
    · exact .inr ⟨h, h', e.symm⟩
    · exact .inl ⟨_, by simp, e⟩
    · exact .inl ⟨_, by simp, e⟩
  case call a1 a2 =>
    rcases h with ⟨h, ⟨h', e⟩ | ⟨-, e⟩⟩ | ⟨-, e⟩
    · refine .inr ⟨h, h', e.symm.trans ?_⟩
      simp [State.push, State.setPc, State.setFp, State.setSp, State.setStack, add_assoc]
    · exact .inl ⟨_, by simp, e⟩
    · exact .inl ⟨_, by simp, e⟩
  case ret =>
    rcases h with ⟨h, ⟨h2, ⟨h3, ⟨h4, ⟨h5, ⟨h6, e⟩ | ⟨-, e⟩⟩ | ⟨-, e⟩⟩ | ⟨-, e⟩⟩ | ⟨-, e⟩⟩ |
      ⟨-, e⟩⟩ | ⟨-, e⟩
    · exact .inr ⟨h, h2, h3, h4, h5, h6, e.symm⟩
    all_goals exact .inl ⟨_, by simp, e⟩
  case pop =>
    rcases h with ⟨h, e⟩ | ⟨-, e⟩
    · exact .inr ⟨h, e.symm⟩
    · exact .inl ⟨_, by simp, e⟩
  case print =>
    rcases h with ⟨h, e⟩ | ⟨-, e⟩
    · exact .inr ⟨h, e.symm⟩
    · exact .inl ⟨_, by simp, e⟩
  case halt => exact .inr h.symm
  all_goals
    rcases h with ⟨h, e⟩ | ⟨-, e⟩
    · exact .inr ⟨h, e⟩
    · exact .inl ⟨_, by simp, e⟩

/-- Every instruction answers a next state. -/
theorem exec_total (i : Instr) (s : State) : ∃ t, exec i s = .next t := by
  cases i <;> simp only [exec, execConst, execAdd, execSub, execMul, execLt, execEq, execJmp,
    execJmpt, execJmpf, execLoad, execStore, execGload, execGstore, execCall, execRet, execPop,
    execPrint, execHalt, requireRoom, requireDepth, require, binaryOp, branchIf, storeLocals] <;>
    (repeat' split) <;> exact ⟨_, rfl⟩

/-- A fetch that finds a word was made inside the program. -/
theorem pc_lt_of_fetch {s : State} (h0 : 0 ≤ s.pc) (h : fetch s ≠ .endOfProgram) :
    s.pc < s.progLen := by
  by_contra hn
  refine h ?_
  have hd : s.params.prog.drop s.pc.toNat = [] := by
    rw [List.drop_eq_nil_iff]; unfold State.progLen at hn; omega
  rw [fetch, hd]; rfl

/-- The seven moves of a step. -/
inductive StepCase (s t : State) : Prop where
  /-- terminal (R99) or held (R101) -/
  | quiet (runEn cancel : Bool) (hi : s.nextInput = .clock runEn cancel)
      (h : s.terminal = true ∨ s.terminal = false ∧ runEn = false) (e : t = s.consume)
  /-- R93 -/
  | cancelled (hi : s.nextInput = .clock true true) (h : s.terminal = false)
      (e : t = s.consume.start.stop .cancelled)
  /-- R94 -/
  | endOfProgram (hi : s.nextInput = .clock true false) (h : s.terminal = false)
      (hpc : s.pc = s.progLen) (e : t = s.consume.start.stop .endOfProgram)
  /-- R161, R96 -/
  | badFetch (hf : Fetches s) (c : Cause)
      (hc : fetch s = .invalidOpcode ∧ c = .invalidOpcode ∨
        fetch s = .truncated ∧ c = .outOfBoundsJump)
      (e : t = s.consume.faultedWith c)
  /-- R97 -/
  | ran (hf : Fetches s) (i : Instr) (rest : List Int) (hd : fetch s = .ok i rest)
      (e : exec i s.consume.start = .next t)
  /-- R191 -/
  | rst (hi : s.nextInput = .rst) (e : t = construct s.params s.inputs.tail)
  /-- R190, R197 -/
  | construct (p : Params) (hi : s.nextInput = .construct p) (hv : p.valid)
      (hp : s.terminal = true ∨ p = s.params) (e : t = construct p s.inputs.tail)

/-- Everything a step can do. -/
theorem step_cases {s t : State} (h : step s = .next t) : StepCase s t := by
  cases hi : s.nextInput with
  | clock r c =>
    rw [step_clock hi] at h
    rcases engineStep_cases r c s.consume with ⟨h1, e⟩ | ⟨h1, h2, e⟩ | ⟨h1, h2, h3, e⟩ |
      ⟨h1, h2, h3, h4, e⟩ | ⟨h1, h2, h3, h4, h5, e⟩ <;> rw [e] at h
    · cases h; exact .quiet r c hi (.inl h1) rfl
    · cases h; exact .quiet r c hi (.inr ⟨h1, h2⟩) rfl
    · cases h; subst h2 h3; exact .cancelled hi h1 rfl
    · cases h
    · subst h2 h3
      simp only [State.consume_pc, State.consume_progLen, terminal_consume] at h1 h4 h5
      rw [fetch_consume] at h
      cases hd : fetch s with
      | ok i rest =>
        rw [hd] at h
        exact .ran ⟨h1, hi, h4, pc_lt_of_fetch h4 (by simp [hd])⟩ i rest hd h
      | invalidOpcode =>
        rw [hd] at h; cases h
        exact .badFetch ⟨h1, hi, h4, pc_lt_of_fetch h4 (by simp [hd])⟩ _ (.inl ⟨hd, rfl⟩) rfl
      | truncated =>
        rw [hd] at h; cases h
        exact .badFetch ⟨h1, hi, h4, pc_lt_of_fetch h4 (by simp [hd])⟩ _ (.inr ⟨hd, rfl⟩) rfl
      | endOfProgram =>
        rw [hd] at h; cases h
        refine .endOfProgram hi h1 ?_ rfl
        by_contra hne
        exact fetch_ne_endOfProgram ⟨h4, by omega⟩ hd
  | rst => rw [step_rst hi] at h; cases h; exact .rst hi rfl
  | construct p =>
    rw [step_construct hi] at h
    rcases hostConstruct_cases p s.consume with ⟨-, e⟩ | ⟨-, -, -, e⟩ | ⟨hv, hp, e⟩ <;>
      rw [e] at h <;> cases h
    exact .construct p hi hv hp rfl

end Sys2Proof.Machine
end

