-- ==== Sys2Proof/Tests/Slice0.lean ====
section
/-! SUPPORT. Tests of single steps with results from 95_test_vectors.md (V and E numbers) and the
rules' own examples, words written out from 30_encoding.md, ill-formed terms, and for every statement
with hypotheses a state that meets them. -/

namespace Sys2Proof.Tests

open Sys2Proof Sys2Proof.Machine

/-- The memory whose slots from 0 on hold `vs`. -/
def memOf (vs : List Int) : Memory :=
  ((List.range vs.length).zip vs).filter fun c => decide (c.2 ≠ 0)

/-- A `Running` machine with the default W, STACK_CAP and OPC, live stack `vs` and locals store `ls`. -/
def mk (prog vs : List Int) (ls : List Int := []) (pc : Int := 0) (fp : Int := 0) : State where
  params := { Config.unloaded with prog := prog, localsSize := ls.length }
  pc := pc
  sp := (vs.length : Int) - 1
  fp := fp
  fsm := .running
  cause := .none
  stack := memOf vs
  locals := memOf ls
  out := []
  inputs := []

/-- What a test looks at in a next state: pc, fp, the live stack slots and the engine's state. -/
def seen : Result → Option (Int × Int × List Int × Fsm)
  | .next t => some (t.pc, t.fp, t.liveStack, t.fsm)
  | .fault _ => none
  | .refused _ => none

/-- The locals store of a next state. -/
def seenLocals : Result → Option (List Int)
  | .next t => some t.localsList
  | .fault _ => none
  | .refused _ => none

/-- The next state of an outcome. -/
def nextOf : Result → Option State
  | .next t => some t
  | .fault _ => none
  | .refused _ => none

/-- The outcome is a fault of the machine with this cause, and nothing but `fsm`, `cause` and the
input taken has changed. -/
def faultsWith (s : State) (c : Cause) : Prop :=
  nextOf (step s) = some (s.consume.faultedWith c)

/-! ### Well-formed and ill-formed terms (R8, R71) -/

theorem test_wf_const : Instr.wf 64 (.const (-9223372036854775808)) = true := by decide
theorem test_wf_rejects_const : Instr.wf 64 (.const 9223372036854775808) = false := by decide
theorem test_wf_rejects_narrow : Instr.wf 8 (.const 128) = false := by decide
theorem test_wf_rejects_jumps : Instr.wf 64 (.jmp (2 ^ 63)) = false ∧
    Instr.wf 64 (.jmpt (2 ^ 63)) = false ∧ Instr.wf 64 (.jmpf (-2 ^ 63 - 1)) = false := by decide
theorem test_wf_rejects_loads_and_stores : Instr.wf 64 (.load (2 ^ 63)) = false ∧
    Instr.wf 64 (.store (2 ^ 64)) = false ∧ Instr.wf 64 (.gstore (-2 ^ 63 - 1)) = false := by decide
theorem test_wf_rejects_call : Instr.wf 64 (.call (2 ^ 63) 0) = false ∧
    Instr.wf 64 (.call 0 (2 ^ 63)) = false := by decide

/-! ### Decoding: words written out from the tables of R71, R72, R74 -/

/-- The decoder under the default numbering. -/
abbrev dec (ws : List Int) : Decoded := decodeWords Config.defaultOpc ws

theorem test_decode_const : dec [1, 42] = .ok (.const 42) [] := by decide
theorem test_decode_add : dec [2, 9] = .ok .add [9] := by decide
theorem test_decode_sub : dec [3] = .ok .sub [] := by decide
theorem test_decode_mul : dec [4] = .ok .mul [] := by decide
theorem test_decode_lt : dec [5] = .ok .lt [] := by decide
theorem test_decode_eq : dec [6] = .ok .eq [] := by decide
theorem test_decode_jmp : dec [7, 3, 18, 18] = .ok (.jmp 3) [18, 18] := by decide
theorem test_decode_jmpt : dec [8, 3, 18, 18] = .ok (.jmpt 3) [18, 18] := by decide
theorem test_decode_jmpf : dec [9, 3, 18, 18] = .ok (.jmpf 3) [18, 18] := by decide
theorem test_decode_load : dec [10, -3] = .ok (.load (-3)) [] := by decide
theorem test_decode_store : dec [11, -2] = .ok (.store (-2)) [] := by decide
theorem test_decode_gload : dec [12, 5] = .ok .gload [5] := by decide
theorem test_decode_gstore : dec [13, 2] = .ok (.gstore 2) [] := by decide
theorem test_decode_call : dec [14, 5, 2, 17] = .ok (.call 5 2) [17] := by decide
theorem test_decode_ret : dec [15, 0] = .ok .ret [0] := by decide
theorem test_decode_pop : dec [16] = .ok .pop [] := by decide
theorem test_decode_print : dec [17] = .ok .print [] := by decide
theorem test_decode_halt : dec [18] = .ok .halt [] := by decide

/-- V140 to V145: the words of R77 that no instruction has. -/
theorem test_decode_rejects : ∀ w ∈ [255, 0, 19, -1, 257, (-2 ^ 63 : Int)],
    dec [w, 1, 1] = .invalidOpcode := by decide

/-- V5, V44, V70, V91, V108: a missing operand (R96); and the end of the program (R94). -/
theorem test_decode_truncated : dec [1] = .truncated ∧ dec [7] = .truncated ∧
    dec [10] = .truncated ∧ dec [13] = .truncated ∧ dec [14, 0] = .truncated ∧
    dec [] = .endOfProgram := by decide

/-! The same from bits: the opcode word in bits 63..0, `a1` in 127..64, `a2` in 191..128 (R81). -/

theorem test_bits_const_minus_one :
    decodeTableWord 128 (0xFFFFFFFFFFFFFFFF * 2 ^ 64 + 0x01) = some (.const (-1)) := by decide
theorem test_bits_short_const : decodeTableWord 64 0x01 = some (.const 0) := by decide
theorem test_bits_add : decodeTableWord 64 0x02 = some .add := by decide
theorem test_bits_jmpf : decodeTableWord 128 (35 * 2 ^ 64 + 0x09) = some (.jmpf 35) := by decide
theorem test_bits_gstore :
    decodeTableWord 128 (0x8000000000000000 * 2 ^ 64 + 0x0D) = some (.gstore (-2 ^ 63)) := by decide
theorem test_bits_call :
    decodeTableWord 192 (2 * 2 ^ 128 + 5 * 2 ^ 64 + 0x0E) = some (.call 5 2) := by decide
theorem test_bits_halt : decodeTableWord 64 0x12 = some .halt := by decide
theorem test_bits_whole_word_is_matched :
    decodeTableWord 64 0x0100000000000012 = none := by decide

/-! ### One step of each instruction -/

theorem test_const : seen (step (mk [1, -7] [5])) = some (2, 0, [5, -7], .running) := by -- V2
  decide
theorem test_const_full : faultsWith { mk [1, 42] [] with sp := 99 } .stackOverflow := by -- V4
  unfold faultsWith; decide
theorem test_add_wraps : seen (step (mk [2] [2 ^ 63 - 1, 1])) = -- V8
    some (1, 0, [-2 ^ 63], .running) := by decide
theorem test_add_touches_two : seen (step (mk [2] [9, 8, -3, 3])) = -- V10
    some (1, 0, [9, 8, 0], .running) := by decide
theorem test_sub_order : seen (step (mk [3] [10, 3])) = some (1, 0, [7], .running) := by -- V13
  decide
theorem test_sub_wraps : seen (step (mk [3] [0, -2 ^ 63])) = -- V16
    some (1, 0, [-2 ^ 63], .running) := by decide
theorem test_mul_wraps : seen (step (mk [4] [3037000500, 3037000500])) = -- V22
    some (1, 0, [-9223372036709301616], .running) := by decide
theorem test_mul_least : seen (step (mk [4] [-2 ^ 63, -1])) = -- V21
    some (1, 0, [-2 ^ 63], .running) := by decide
theorem test_lt_signed : seen (step (mk [5] [2 ^ 63 - 1, -2 ^ 63])) = -- V29
    some (1, 0, [0], .running) := by decide
theorem test_lt_order : seen (step (mk [5] [1, 2])) = some (1, 0, [1], .running) := by -- V24
  decide
theorem test_eq : seen (step (mk [6] [9, 5, 5])) = some (1, 0, [9, 1], .running) := by -- V31
  decide
theorem test_eq_one_value : faultsWith (mk [6] [5]) .stackUnderflow := by -- V34
  unfold faultsWith; decide
theorem test_jmp_backward : seen (step (mk [18, 18, 7, 0] [] [] 2)) = -- V45
    some (0, 0, [], .running) := by decide
theorem test_jmp_to_end : faultsWith (mk [7, 4, 18, 18] []) .outOfBoundsJump := by -- V42
  unfold faultsWith; decide
theorem test_jmpt_two_falls_through : seen (step (mk [8, 3, 18, 18] [2])) = -- V48
    some (2, 0, [], .running) := by decide
theorem test_jmpt_underflow_first : faultsWith (mk [8, 99, 18, 18] []) .stackUnderflow := by -- V53
  unfold faultsWith; decide
theorem test_jmpf_taken : seen (step (mk [9, 3, 18, 18] [0])) = -- V54
    some (3, 0, [], .running) := by decide
theorem test_jmpf_untaken_unchecked : seen (step (mk [9, 4, 18, 18] [7, 1])) = -- V58
    some (2, 0, [7], .running) := by decide
theorem test_load_argument : seen (step (mk [10, -3] [7, 1, 0, 5] [] 0 3)) = -- V60
    some (2, 3, [7, 1, 0, 5, 7], .running) := by decide
theorem test_load_exact_sum : -- V68
    faultsWith (mk [10, -2 ^ 63 + 4] [1, 2, 3, 4, 5] [] 0 (-2 ^ 63)) .outOfBoundsJump := by
  unfold faultsWith; decide
theorem test_store : seenLocals (step (mk [11, -2] [7, 1, 0, 5, 77] [0, 0, 0, 0] 0 3)) = -- V72
    some [0, 77, 0, 0] := by decide
theorem test_store_outside : faultsWith (mk [11, 4] [77] [0, 0, 0, 0]) .outOfBoundsJump := by -- V73
  unfold faultsWith; decide
theorem test_gload : seen (step (mk [12] [9, 2] [10, 20, 30])) = -- V79
    some (1, 0, [9, 30], .running) := by decide
theorem test_gload_outside : faultsWith (mk [12] [9, 3] [10, 20, 30]) .outOfBoundsJump := by -- V80
  unfold faultsWith; decide
theorem test_gstore : seenLocals (step (mk [13, 0] [7, 1, 0, 5, 55] [10, 20, 30] 0 3)) = -- V90
    some [55, 20, 30] := by decide
theorem test_gstore_underflow_first : -- V89
    faultsWith (mk [13, 3] [] [10, 20, 30]) .stackUnderflow := by unfold faultsWith; decide
theorem test_call_nested : seen (step (mk [18, 18, 14, 0, 1] [7, 1, 0, 5, 9] [] 2 3)) = -- V102
    some (0, 7, [7, 1, 0, 5, 9, 1, 3, 5], .running) := by decide
theorem test_call_no_partial_push : -- V106
    faultsWith { mk [14, 5, 0, 17, 18, 15] [] with sp := 97 } .stackOverflow := by
  unfold faultsWith; decide
theorem test_ret : seen (step (mk [15, 0, 0, 17, 18] [8, 9, 4, 6, 2, 0, 3, 10] [] 0 6)) = -- V126
    some (3, 0, [8, 9, 10], .running) := by decide
theorem test_ret_no_argument : seen (step (mk [15, 0, 0, 17, 18] [0, 0, 3, 10] [] 0 2)) = -- V112
    some (3, 0, [10], .running) := by decide
theorem test_pop : seen (step (mk [16] [1, 2])) = some (1, 0, [1], .running) := by -- V130
  decide
theorem test_pop_empty : faultsWith (mk [16] []) .stackUnderflow := by -- V132
  unfold faultsWith; decide
theorem test_print : (nextOf (step { mk [17] [1, -2] with out := [5] })).map State.out = -- V133
    some [5, -2] := by decide
theorem test_print_empty : faultsWith { mk [17] [] with out := [5] } .stackUnderflow := by -- V134
  unfold faultsWith; decide
theorem test_halt : seen (step (mk [18] [1])) = some (1, 0, [1], .halted) := by -- V136
  decide

/-! ### The engine, the host and reset -/

/-- V140. -/
theorem test_invalid_opcode : faultsWith (mk [255] [3]) .invalidOpcode := by
  unfold faultsWith; decide

/-- V150. -/
theorem test_end_of_program : (nextOf (step (mk [16] [] [] 1))).map State.cause =
    some .endOfProgram := by decide

/-- V152: cancel is looked at before the end of the program. -/
theorem test_cancel_first :
    (nextOf (step { mk [16] [] [] 1 with inputs := [.clock true true] })).map State.cause =
      some .cancelled := by decide

/-- V163: the machine with no program comes out of reset in a configuration error. -/
theorem test_reset_report : State.reset.faultReport =
    some { cause := .configurationError, pc := 0, sp := -1, fp := 0 } := by decide

/-- A program `[18]` that the host loads from `State.reset`: reset, then HALT from `Ready` (R98). -/
theorem test_load_and_run :
    (nextOf (runInputs State.reset
      [.construct { Config.unloaded with prog := [18] }, .clock true false])).map State.faultReport =
        some none ∧
    (nextOf (runInputs State.reset
      [.construct { Config.unloaded with prog := [18] }, .clock true false])).map State.cause =
        some .haltInstruction := by decide

/-- The instruction placed by `withFetchWord` is the first to run after reset: CONST 42 (V1). -/
theorem test_with_fetch_word :
    seen (step (State.reset.withFetchWord 128 (42 * 2 ^ 64 + 1))) = some (2, 0, [42], .running) := by
  decide

/-! ### The memory -/

/-- Writing what an unlisted slot reads as removes the entry. -/
theorem test_memory_write :
    Memory.write [(1, 7), (3, 9)] 3 0 = [(1, 7)] ∧ Memory.write [(1, 7)] 0 5 = [(0, 5), (1, 7)] ∧
      Memory.write [(1, 7)] 1 8 = [(1, 8)] := by decide

/-! ### A witness for every statement with hypotheses: states and operands that meet all of them. Each
is named after its statement; a conjunction has one part for each clause of the statement. -/

theorem witness_DecodeReadsBackEncode : Config.defaultOpc.words.Nodup := by decide

theorem witness_TableWordReadsBackEncoding :
    Instr.wf Config.defaultW (.call (-2 ^ 63) (2 ^ 63 - 1)) = true ∧
      Config.defaultW * maxInstrWords ≤ 192 := by decide

theorem witness_DecodedWordsAreTheEncoding :
    decodeWords Config.defaultOpc [14, 5, 2, 17] = .ok (.call 5 2) [17] := by decide

theorem witness_UndefinedOpcodeFaults : ∀ w ∈ [255, 0, 19, -1, (-2 ^ 63 : Int)],
    Fetches (mk [w] [3]) ∧ (mk [w] [3]).progPort (mk [w] [3]).pc = some w ∧
      w ∉ (mk [w] [3]).params.opc.words := by decide

/-- What `TruncationFaults` asks of a state. -/
abbrev truncatedAt (m : Mnemonic) (s : State) : Prop :=
  s.params.valid ∧ Fetches s ∧ s.progPort s.pc = some (s.params.opc.number m) ∧
    s.progLen - 1 < s.pc + m.operandCount

theorem witness_TruncationFaults :
    truncatedAt .const (mk [1] []) ∧ truncatedAt .jmp (mk [18, 7] [] [] 1) ∧
    truncatedAt .jmpt (mk [8] [1]) ∧ truncatedAt .jmpf (mk [9] [0]) ∧
    truncatedAt .load (mk [10] [1]) ∧ truncatedAt .store (mk [11] [1] [0]) ∧
    truncatedAt .gstore (mk [13] [1] [0]) ∧ truncatedAt .call (mk [14, 0] []) ∧
    truncatedAt .call (mk [14] []) := by refine ⟨?_, ?_, ?_, ?_, ?_, ?_, ?_, ?_, ?_⟩ <;> decide

theorem witness_TruncatedInstructionFaults :
    1 ≤ Mnemonic.call.operandCount ∧ truncatedAt .call (mk [14, 0] []) := by decide

theorem witness_StepRunsTheDecodedInstruction :
    Fetches (mk [1, 42] []) ∧ Instr.wf (mk [1, 42] []).params.w (.const 42) = true ∧
      decodeWords (mk [1, 42] []).params.opc
        ((mk [1, 42] []).params.prog.drop (mk [1, 42] []).pc.toNat) = .ok (.const 42) [] := by
  decide

/-- A machine with one more host input. -/
abbrev mkIn (prog : List Int) (x : HostInput) : State := { mk prog [] with inputs := [x] }

theorem witness_CancelHaltsBetweenInstructions :
    (mkIn [2] (.clock true true)).terminal = false ∧
      (mkIn [2] (.clock true true)).nextInput = .clock true true := by decide

theorem witness_EndOfProgramHalts :
    (mk [16] [] [] 1).terminal = false ∧ (mk [16] [] [] 1).nextInput = .clock true false ∧
      (mk [16] [] [] 1).pc = (mk [16] [] [] 1).progLen := by decide

theorem witness_ReadyStepsAsRunning :
    { mk [18] [] with fsm := .ready }.fsm = .ready ∧
      { mk [18] [] with fsm := .ready }.nextInput = .clock true false := by decide

theorem witness_TerminalStatesAbsorb :
    (State.reset.terminal = true ∧
      ∀ x ∈ [HostInput.clock true true, .clock false false], x.isClock = true) ∧
    { mkIn [18] .rst with fsm := .halted }.terminal = true ∧
      { mkIn [18] .rst with fsm := .halted }.nextInput = .rst ∧
      0 ≤ (mkIn [18] .rst).params.startPc ∧
      (mkIn [18] .rst).params.startPc < (mkIn [18] .rst).progLen := by decide

theorem witness_HoldsDoNotChangeTheRun :
    (mkIn [2] (.clock false true)).terminal = false ∧
      (mkIn [2] (.clock false true)).nextInput = .clock false true := by decide

theorem witness_FetchingStepEndsRunningHaltedOrFaulted : ∀ w ∈ [18, 2, (16 : Int)],
    Fetches (mk [w] [1]) ∧ (nextOf (step (mk [w] [1]))).isSome = true := by decide

theorem witness_StepFaultsAsTheMatrixSays :
    (Fetches (mk [2] [1]) ∧ SpInStack (mk [2] [1]) ∧
      stepFault (mk [2] [1]) = some .stackUnderflow) ∧
    (Fetches { mk [10, 200] [] with sp := 99 } ∧ SpInStack { mk [10, 200] [] with sp := 99 } ∧
      stepFault { mk [10, 200] [] with sp := 99 } = some .outOfBoundsJump) ∧
    Fetches (mk [2] [1, 2]) ∧ SpInStack (mk [2] [1, 2]) ∧ stepFault (mk [2] [1, 2]) = none := by
  decide

theorem witness_FaultsArePrecise :
    (mk [255] [3]).terminal = false ∧ (mk [255] [3]).nextInput = .clock true false ∧
      (nextOf (step (mk [255] [3]))).map State.fsm = some .faulted := by decide

theorem witness_StepIsTotal :
    PcInProgram (mk [16] [] [] 1) ∧ (mk [16] [] [] 1).nextInput.isClock = true := by decide

/-- Parameters with the program `[18]` and a start index. -/
abbrev haltAt (startPc : Int) : Params := { Config.unloaded with prog := [18], startPc := startPc }

theorem witness_ConstructLeavesTheResetValues :
    (∀ startPc ∈ [0, 1, (-1 : Int)],
      { State.reset with inputs := [.construct (haltAt startPc)] }.nextInput =
          .construct (haltAt startPc) ∧
        (haltAt startPc).valid ∧
        { State.reset with inputs := [.construct (haltAt startPc)] }.terminal = true) ∧
    (mkIn [18] (.construct (haltAt 0))).nextInput = .construct (haltAt 0) ∧ (haltAt 0).valid ∧
      (mkIn [18] (.construct (haltAt 0))).terminal = false ∧
      haltAt 0 = (mkIn [18] (.construct (haltAt 0))).params := by decide

theorem witness_ConfigurationErrorNeverRuns :
    (0 ≤ (haltAt 0).startPc ∧ (haltAt 0).startPc < (haltAt 0).prog.length) ∧
    ∀ startPc ∈ [1, (-1 : Int)], ¬ (0 ≤ (haltAt startPc).startPc ∧
      (haltAt startPc).startPc < (haltAt startPc).prog.length) := by decide

theorem witness_RstDiscardsTheRun :
    (mkIn [2] .rst).nextInput = .rst ∧ { mk [2] [4, 5] with inputs := [.rst] }.nextInput = .rst ∧
      (mkIn [2] .rst).params = { mk [2] [4, 5] with inputs := [.rst] }.params ∧
      (mkIn [2] .rst).inputs = { mk [2] [4, 5] with inputs := [.rst] }.inputs := by decide

theorem witness_IllegalHostMovesAreRefused :
    ((mkIn [2] (.construct { haltAt 0 with stackCap := 2 ^ 63 })).nextInput =
        .construct { haltAt 0 with stackCap := 2 ^ 63 } ∧
      ¬ { haltAt 0 with stackCap := 2 ^ 63 }.valid) ∧
    (mkIn [2] (.construct (haltAt 0))).nextInput = .construct (haltAt 0) ∧ (haltAt 0).valid ∧
      (mkIn [2] (.construct (haltAt 0))).terminal = false ∧
      haltAt 0 ≠ (mkIn [2] (.construct (haltAt 0))).params := by decide

theorem witness_OnlyConstructReplacesParameters :
    (nextOf (step { State.reset with inputs := [.construct (haltAt 0)] })).isSome = true ∧
      (nextOf (step (mk [16] [1]))).isSome = true := by decide

/-- A state at the last free slot, and one at a full stack. -/
abbrev atDepth (sp : Int) : State := { mk [18] [] with sp := sp }

theorem witness_ConstPushesItsOperand :
    (atDepth 98).sp < ((atDepth 98).params.stackCap : Int) - 1 ∧
      ¬ (atDepth 99).sp < ((atDepth 99).params.stackCap : Int) - 1 := by decide

theorem witness_AddReplacesTwoWordsByTheirWrappedSum :
    1 ≤ (mk [2] [2 ^ 63 - 1, 1]).sp ∧ ¬ 1 ≤ (mk [2] [1]).sp := by decide

theorem witness_SubReplacesTwoWordsByTheirWrappedDifference :
    1 ≤ (mk [3] [10, 3]).sp ∧ ¬ 1 ≤ (mk [3] [4]).sp := by decide

theorem witness_MulReplacesTwoWordsByTheirWrappedProduct :
    1 ≤ (mk [4] [6, 7]).sp ∧ ¬ 1 ≤ (mk [4] []).sp := by decide

theorem witness_LtLeavesOneWhenTheLowerWordIsLess :
    1 ≤ (mk [5] [-1, 0]).sp ∧ ¬ 1 ≤ (mk [5] [3]).sp := by decide

theorem witness_EqLeavesOneWhenTheWordsAreEqual :
    1 ≤ (mk [6] [5, 5]).sp ∧ ¬ 1 ≤ (mk [6] [5]).sp := by decide

/-- A program of four words. -/
abbrev four (vs : List Int) : State := mk [18, 18, 18, 18] vs

theorem witness_JmpLoadsTheTarget :
    (∀ a ∈ [0, (3 : Int)], 0 ≤ a ∧ a < (four []).progLen) ∧
      ∀ a ∈ [-1, (4 : Int)], ¬ (0 ≤ a ∧ a < (four []).progLen) := by decide

theorem witness_JmptJumpsOnOne :
    ¬ 0 ≤ (four []).sp ∧
    (0 ≤ (four [1]).sp ∧ (four [1]).stackAt (four [1]).sp = 1 ∧ (0 : Int) ≤ 3 ∧
      3 < (four [1]).progLen) ∧
    ¬ ((0 : Int) ≤ 4 ∧ 4 < (four [1]).progLen) ∧
    0 ≤ (four [2]).sp ∧ (four [2]).stackAt (four [2]).sp ≠ 1 := by decide

theorem witness_JmpfJumpsOnZero :
    ¬ 0 ≤ (four []).sp ∧
    (0 ≤ (four [0]).sp ∧ (four [0]).stackAt (four [0]).sp = 0 ∧ (0 : Int) ≤ 3 ∧
      3 < (four [0]).progLen) ∧
    ¬ ((0 : Int) ≤ 4 ∧ 4 < (four [0]).progLen) ∧
    0 ≤ (four [1]).sp ∧ (four [1]).stackAt (four [1]).sp ≠ 0 := by decide

theorem witness_LoadPushesALiveSlot :
    (∀ a ∈ [-1, (2 : Int)], ¬ (0 ≤ (four [11, 22]).fp + a ∧
      (four [11, 22]).fp + a ≤ (four [11, 22]).sp)) ∧
    (0 ≤ (atDepth 99).fp + 99 ∧ (atDepth 99).fp + 99 ≤ (atDepth 99).sp ∧
      ¬ (atDepth 99).sp < ((atDepth 99).params.stackCap : Int) - 1) ∧
    ∀ a ∈ [0, (1 : Int)], 0 ≤ (four [11, 22]).fp + a ∧
      (four [11, 22]).fp + a ≤ (four [11, 22]).sp ∧
      (four [11, 22]).sp < ((four [11, 22]).params.stackCap : Int) - 1 := by decide

/-- A machine with three locals slots. -/
abbrev withLocals (vs : List Int) : State := mk [18] vs [10, 20, 30]

theorem witness_StoreWritesAFrameRelativeLocal :
    ¬ 0 ≤ (withLocals []).sp ∧
    (∀ a ∈ [-1, (3 : Int)], 0 ≤ (withLocals [7]).sp ∧ ¬ (0 ≤ (withLocals [7]).fp + a ∧
      (withLocals [7]).fp + a < (withLocals [7]).params.localsSize)) ∧
    ∀ a ∈ [0, (2 : Int)], 0 ≤ (withLocals [7]).sp ∧ 0 ≤ (withLocals [7]).fp + a ∧
      (withLocals [7]).fp + a < (withLocals [7]).params.localsSize := by decide

theorem witness_GloadReplacesTheAddressByTheLocal :
    ¬ 0 ≤ (withLocals []).sp ∧
    (∀ v ∈ [-1, (3 : Int)], 0 ≤ (withLocals [v]).sp ∧
      ¬ (0 ≤ (withLocals [v]).stackAt (withLocals [v]).sp ∧
        (withLocals [v]).stackAt (withLocals [v]).sp < (withLocals [v]).params.localsSize)) ∧
    ∀ v ∈ [0, (2 : Int)], 0 ≤ (withLocals [v]).sp ∧
      0 ≤ (withLocals [v]).stackAt (withLocals [v]).sp ∧
      (withLocals [v]).stackAt (withLocals [v]).sp < (withLocals [v]).params.localsSize := by
  decide

theorem witness_GstoreWritesAnAbsoluteLocal :
    ¬ 0 ≤ (withLocals []).sp ∧
    (∀ a ∈ [-1, (3 : Int)], 0 ≤ (withLocals [7]).sp ∧
      ¬ (0 ≤ a ∧ a < (withLocals [7]).params.localsSize)) ∧
    ∀ a ∈ [0, (2 : Int)], 0 ≤ (withLocals [7]).sp ∧
      0 ≤ a ∧ a < (withLocals [7]).params.localsSize := by decide

theorem witness_CallPushesTheFrameAndJumps :
    ¬ ((0 : Int) ≤ 1 ∧ 1 < (atDepth 96).progLen) ∧
    ((0 : Int) ≤ 0 ∧ 0 < (atDepth 97).progLen ∧
      ¬ (atDepth 97).sp + 3 ≤ ((atDepth 97).params.stackCap : Int) - 1) ∧
    ∀ sp ∈ [-1, (96 : Int)], (0 : Int) ≤ 0 ∧ 0 < (atDepth sp).progLen ∧
      (atDepth sp).sp + 3 ≤ ((atDepth sp).params.stackCap : Int) - 1 ∧ -1 ≤ (atDepth sp).sp := by
  decide

/-- V111 to V128: a machine at a RET, with the program of those vectors. -/
abbrev atRet (vs : List Int) (fp : Int) : State := mk [15, 0, 0, 17, 18] vs [] 0 fp

/-- The words of the frame as `RetUnwindsTheFrame` names them. -/
abbrev frameIs (s : State) (rpc sfp argc : Int) : Prop :=
  s.stackAt s.fp = rpc ∧ s.stackAt (s.fp - 1) = sfp ∧ s.stackAt (s.fp - 2) = argc

/-- One witness for each of the seven clauses: the checks c1 to c6 (V118, V128, V120, V122, V123, V115)
and the return, with the return pc at `N` (V114). -/
theorem witness_RetUnwindsTheFrame :
    ¬ 0 ≤ (atRet [] 0).sp ∧
    (0 ≤ (atRet [0, 3, 10] 1).sp ∧ ¬ 2 ≤ (atRet [0, 3, 10] 1).fp) ∧
    (2 ≤ (atRet [4, 6, 2, 0, 3] 4).fp ∧
      ¬ (atRet [4, 6, 2, 0, 3] 4).fp ≤ (atRet [4, 6, 2, 0, 3] 4).sp - 1) ∧
    (frameIs (atRet [4, 6, -1, 0, 3, 10] 4) 3 0 (-1) ∧
      (atRet [4, 6, -1, 0, 3, 10] 4).fp ≤ (atRet [4, 6, -1, 0, 3, 10] 4).sp - 1) ∧
    (frameIs (atRet [4, 6, 3, 0, 3, 10] 4) 3 0 3 ∧
      ¬ -1 ≤ (atRet [4, 6, 3, 0, 3, 10] 4).fp - 3 - 3) ∧
    (frameIs (atRet [4, 6, 2, 0, 6, 10] 4) 6 0 2 ∧ -1 ≤ (atRet [4, 6, 2, 0, 6, 10] 4).fp - 3 - 2 ∧
      ¬ ((0 : Int) ≤ 6 ∧ 6 ≤ (atRet [4, 6, 2, 0, 6, 10] 4).progLen)) ∧
    frameIs (atRet [4, 6, 2, 0, 5, 10] 4) 5 0 2 ∧ 0 ≤ (atRet [4, 6, 2, 0, 5, 10] 4).sp ∧
      2 ≤ (atRet [4, 6, 2, 0, 5, 10] 4).fp ∧
      (atRet [4, 6, 2, 0, 5, 10] 4).fp ≤ (atRet [4, 6, 2, 0, 5, 10] 4).sp - 1 ∧
      -1 ≤ (atRet [4, 6, 2, 0, 5, 10] 4).fp - 3 - 2 ∧
      5 ≤ (atRet [4, 6, 2, 0, 5, 10] 4).progLen := by decide

theorem witness_PopDropsTheTop : 0 ≤ (mk [16] [1]).sp ∧ ¬ 0 ≤ (mk [16] []).sp := by decide

theorem witness_PrintEmitsTheTopOnce : 0 ≤ (mk [17] [-2]).sp ∧ ¬ 0 ≤ (mk [17] []).sp := by decide

theorem witness_HaltStopsTheEngine : (∃ t, exec .halt (mk [18] [1]) = .next t) ∧
    ∀ x ∈ [HostInput.clock true true], x.isClock = true := ⟨⟨_, rfl⟩, by decide⟩

/-- Program P4 at its CALL. -/
abbrev p4Caller : State := mk [1, 5, 1, 7, 14, 9, 2, 17, 18, 10, -4, 10, -3, 2, 15] [5, 7] [] 4

/-- Program P4 just after its CALL (step 3). -/
abbrev p4Callee : State :=
  mk [1, 5, 1, 7, 14, 9, 2, 17, 18, 10, -4, 10, -3, 2, 15] [5, 7, 2, 0, 7] [] 9 4

/-- Program P4 just before its RET (step 6). -/
abbrev p4Return : State :=
  mk [1, 5, 1, 7, 14, 9, 2, 17, 18, 10, -4, 10, -3, 2, 15] [5, 7, 2, 0, 7, 12] [] 14 4

theorem witness_CallThenRetRestoresTheCaller :
    nextOf (exec (.call 9 2) p4Caller) = some p4Callee ∧ p4Callee.fsm ≠ .faulted ∧
      -1 ≤ p4Caller.sp ∧ (2 : Int) ≤ p4Caller.sp + 1 ∧ 0 ≤ p4Caller.pc ∧
      p4Caller.pc + 3 ≤ p4Caller.progLen ∧ p4Return.params = p4Caller.params ∧
      p4Return.fp = p4Callee.fp ∧ p4Callee.sp < p4Return.sp ∧
      p4Return.stackAt p4Return.fp = p4Callee.stackAt p4Callee.fp ∧
      p4Return.stackAt (p4Return.fp - 1) = p4Callee.stackAt (p4Callee.fp - 1) ∧
      p4Return.stackAt (p4Return.fp - 2) = p4Callee.stackAt (p4Callee.fp - 2) := by decide

theorem witness_PcStaysInTheProgram :
    PcInProgram p4Caller ∧ (nextOf (step p4Caller)).isSome = true := by decide

theorem witness_SpStaysInTheStack :
    SpInStack p4Caller ∧ (nextOf (step p4Caller)).isSome = true := by decide

theorem witness_CauseKeepsAgreeingWithTheEngine :
    CauseAgrees p4Caller ∧ (nextOf (step p4Caller)).isSome = true := ⟨rfl, by decide⟩

theorem witness_StepKeepsTheMemoriesCanonical :
    SpInStack (withLocals [7, 2]) ∧
      (withLocals [7, 2]).stack.within (withLocals [7, 2]).params.stackCap ∧
      (withLocals [7, 2]).locals.within (withLocals [7, 2]).params.localsSize ∧
      (nextOf (step (withLocals [7, 2]))).isSome = true := by decide

theorem witness_EveryStepKeepsTheInvariant :
    Inv p4Caller ∧ (nextOf (step p4Caller)).isSome = true :=
  ⟨⟨by decide, by decide, by decide, rfl, by decide, by decide, by decide⟩, by decide⟩

theorem witness_ResetHasTheInvariant : ∀ startPc ∈ [0, 1, (-1 : Int)], (haltAt startPc).valid := by
  decide

theorem witness_FpChangesOnlyInCallAndRet : ∀ s ∈ [p4Caller, p4Return],
    s.nextInput = .clock true false ∧ (nextOf (step s)).isSome = true := by decide

theorem witness_LocalsChangeOnlyInStoreAndGstore :
    ∀ s ∈ [mk [11, 2] [7] [0, 0, 0], mk [13, 0] [7] [0, 0, 0]],
      s.nextInput = .clock true false ∧ (nextOf (step s)).isSome = true := by decide

theorem witness_OnlyPrintGrowsTheOutput :
    (mk [17] [7]).nextInput = .clock true false ∧ (nextOf (step (mk [17] [7]))).isSome = true := by
  decide

theorem witness_DeadSlotsAreUnobservable :
    SameButDead (mk [16] [1]) { mk [16] [1] with stack := [(0, 1), (5, 9)] } := by
  refine ⟨rfl, fun k hk => ?_⟩
  have hk' : (k : Int) ≤ 0 := hk
  obtain rfl : k = 0 := by omega
  rfl

theorem witness_WrapIsTheOneCongruentWord :
    FitsWord 64 (-2 ^ 63) ∧ ((2 ^ 64 : Nat) : Int) ∣ (-2 ^ 63 : Int) - 2 ^ 63 := by decide

end Sys2Proof.Tests
end

section
/-! ### Words (R8)

`wrap` by its defining property, and when an integer is a word. -/

namespace Sys2Proof.Machine

theorem two_pow_eq_double {w : Nat} (hw : 1 ≤ w) :
    ((2 ^ w : Nat) : Int) = 2 * ((2 ^ (w - 1) : Nat) : Int) := by
  obtain ⟨k, rfl⟩ := Nat.exists_eq_add_of_le' hw
  rw [Nat.add_sub_cancel, Nat.pow_succ]
  push_cast
  ring

theorem two_pow_pos (w : Nat) : (0 : Int) < ((2 ^ w : Nat) : Int) :=
  Int.natCast_pos.mpr (Nat.two_pow_pos w)

theorem fitsWord_wrap {w : Nat} (hw : 1 ≤ w) (z : Int) : FitsWord w (wrap w z) := by
  have hM := two_pow_pos w
  have hlo := Int.emod_nonneg (z + ((2 ^ (w - 1) : Nat) : Int)) hM.ne'
  have hhi := Int.emod_lt_of_pos (z + ((2 ^ (w - 1) : Nat) : Int)) hM
  rw [two_pow_eq_double hw] at hlo hhi
  unfold FitsWord wordMin wordMax wrap
  rw [two_pow_eq_double hw]
  constructor <;> linarith

theorem two_pow_dvd_wrap_sub (w : Nat) (z : Int) : ((2 ^ w : Nat) : Int) ∣ wrap w z - z := by
  have hdiv := Int.emod_add_mul_ediv (z + ((2 ^ (w - 1) : Nat) : Int)) ((2 ^ w : Nat) : Int)
  refine ⟨-((z + ((2 ^ (w - 1) : Nat) : Int)) / ((2 ^ w : Nat) : Int)), ?_⟩
  unfold wrap
  linarith

/-- A word is its own `wrap`. -/
theorem wrap_eq_self {w : Nat} (hw : 1 ≤ w) {y : Int} (hy : FitsWord w y) : wrap w y = y := by
  obtain ⟨hlo, hhi⟩ := hy
  unfold wordMin at hlo
  unfold wordMax at hhi
  unfold wrap
  rw [Int.emod_eq_of_lt (by linarith) (by rw [two_pow_eq_double hw]; linarith)]
  ring

/-- `wrap` depends on the congruence class only. -/
theorem wrap_congr {w : Nat} {y z : Int} (h : ((2 ^ w : Nat) : Int) ∣ y - z) :
    wrap w y = wrap w z := by
  have hmod := (Int.modEq_iff_dvd.mpr h).add_right ((2 ^ (w - 1) : Nat) : Int)
  exact congrArg (· - _) hmod.symm

/-- Settles O51: existence is the division algorithm, and a word congruent to `z` is its own `wrap`,
hence that of `z`. -/
theorem wrapIsTheOneCongruentWord : Obligations.WrapIsTheOneCongruentWord := fun w z hw =>
  ⟨fitsWord_wrap hw z, two_pow_dvd_wrap_sub w z, fun _ hy hcong =>
    (wrap_eq_self hw hy).symm.trans (wrap_congr hcong)⟩

/-- The numbers from −1 up to a size within R7 are words: so are sp, pc and the flags. -/
theorem fitsWord_of_le_size {w n : Nat} {z : Int} (hn : n < 2 ^ (w - 1)) (hlo : -1 ≤ z)
    (hhi : z ≤ n) : FitsWord w z := by
  unfold FitsWord wordMin wordMax
  omega

theorem one_lt_half_range {w : Nat} (hw : 8 ≤ w) : 1 < 2 ^ (w - 1) :=
  Nat.one_lt_two_pow (by omega)

theorem fitsWord_zero (w : Nat) : FitsWord w 0 :=
  fitsWord_of_le_size (Nat.two_pow_pos (w - 1)) (by decide) le_rfl

theorem fitsWord_boolWord {w : Nat} (hw : 8 ≤ w) (b : Bool) : FitsWord w (boolWord b) :=
  fitsWord_of_le_size (one_lt_half_range hw) (by cases b <;> decide) (by cases b <;> decide)

end Sys2Proof.Machine
end

section
/-! ### The host's `construct` (R197, R201) -/

namespace Sys2Proof.Machine

/-- Settles O20, by the three ways a `construct` ends. -/
theorem illegalHostMovesAreRefused : Obligations.IllegalHostMovesAreRefused := by
  intro s p hi
  rw [step_construct hi]
  rcases hostConstruct_cases p s.consume with ⟨hv, e⟩ | ⟨hv, -, -, e⟩ | ⟨hv, hmay, -⟩
  · exact ⟨fun _ => e, fun hv' => absurd hv' hv⟩
  · exact ⟨fun hv' => absurd hv hv', fun _ _ _ => e⟩
  · refine ⟨fun hv' => absurd hv hv', fun _ hrun hne => ?_⟩
    rcases hmay with hterm | heq
    · rw [terminal_consume, hrun] at hterm; cases hterm
    · exact absurd heq hne

end Sys2Proof.Machine
end

section
/-! ### What a fetch that decodes says of the program (R71, R75, R96) -/

namespace Sys2Proof

/-- The decoder reads an instruction only from the words that encode it. -/
theorem eq_encode_of_decodeWords {o : OpcodeMap} {ws rest : List Int} {i : Instr}
    (h : decodeWords o ws = .ok i rest) : ws = encode o i ++ rest := by
  cases ws with
  | nil => cases h
  | cons w slots =>
    cases hm : decodeOpcode o w with
    | none => simp [decodeWords, hm] at h
    | some m =>
      cases ho : m.withOperands slots with
      | none => simp [decodeWords, hm, ho] at h
      | some p =>
        simp only [decodeWords, hm, ho, Decoded.ok.injEq] at h
        obtain ⟨rfl, rfl⟩ := h
        obtain ⟨hmn, hslots⟩ := Mnemonic.withOperands_some ho
        rw [encode, hmn, decodeOpcode_some hm, hslots, List.cons_append]

end Sys2Proof

namespace Sys2Proof.Machine

variable {s : State} {i : Instr} {rest : List Int}

theorem drop_prog_of_fetch (h : fetch s = .ok i rest) :
    s.params.prog.drop s.pc.toNat = encode s.params.opc i ++ rest :=
  eq_encode_of_decodeWords h

/-- The operands of a fetched instruction are words of the program. -/
theorem mem_prog_of_fetch (h : fetch s = .ok i rest) {a : Int} (ha : a ∈ i.operands) :
    a ∈ s.params.prog := by
  refine List.mem_of_mem_drop (i := s.pc.toNat) ?_
  rw [drop_prog_of_fetch h]
  simp [encode, ha]

/-- A fetched instruction ends inside the program: `P + n ≤ N` (R96). -/
theorem pc_add_length_le_of_fetch (h0 : 0 ≤ s.pc) (h : fetch s = .ok i rest) :
    s.pc + (1 + i.operands.length) ≤ s.progLen := by
  have hlen := congrArg List.length (drop_prog_of_fetch h)
  simp only [List.length_drop, encode, List.cons_append, List.length_cons,
    List.length_append] at hlen
  unfold State.progLen
  omega

end Sys2Proof.Machine
end

section
/-! ### Sequences of writes to a memory -/

namespace Sys2Proof.Machine

/-- The second memory is `m` after some writes, each below index `n` and of a word with `P`. -/
inductive Memory.Writes (n : Nat) (P : Int → Prop) (m : Memory) : Memory → Prop where
  | none : Memory.Writes n P m m
  | more {m' : Memory} {a : Nat} {v : Int} (h : Memory.Writes n P m m') (ha : a < n) (hv : P v) :
      Memory.Writes n P m (m'.write a v)

variable {n : Nat} {P : Int → Prop} {m m' : Memory}

theorem Memory.Writes.one {a : Nat} {v : Int} (ha : a < n) (hv : P v) :
    Memory.Writes n P m (m.write a v) :=
  .more .none ha hv

theorem Memory.Writes.keeps_within (h : Memory.Writes n P m m') (hm : m.within n) :
    m'.within n := by
  induction h with
  | none => exact hm
  | more _ ha _ ih => exact Memory.write_keeps_within _ ih ha

/-- A property of the words written and of the words held before is one of the words held after. -/
theorem Memory.Writes.keeps_forall {Q : Int → Prop} (h : Memory.Writes n P m m')
    (hP : ∀ v, P v → Q v) (hm : ∀ c ∈ m, Q c.2) : ∀ c ∈ m', Q c.2 := by
  induction h with
  | none => exact hm
  | more _ _ hv ih =>
    intro c hc
    rcases Memory.mem_write hc with rfl | hc
    · exact hP _ hv
    · exact ih c hc

theorem Memory.fitsWord_read {w : Nat} (hm : ∀ c ∈ m, FitsWord w c.2) (a : Nat) :
    FitsWord w (m.read a) := by
  rcases Memory.read_eq_or_mem m a with h | h
  · rw [h]; exact fitsWord_zero w
  · exact hm _ h

end Sys2Proof.Machine
end

section
/-! ### What the effect of an instruction does to each part of the state -/

namespace Sys2Proof.Machine

/-- Where a word that instruction `i` writes to a memory in state `s` comes from. -/
inductive WordSource (i : Instr) (s : State) : Int → Prop where
  | operand {v : Int} (h : v ∈ i.operands) : WordSource i s v
  | wrapped (z : Int) : WordSource i s (wrap s.params.w z)
  | flag (b : Bool) : WordSource i s (boolWord b)
  | stackSlot (k : Int) : WordSource i s (s.stackAt k)
  | localsSlot (k : Int) : WordSource i s (s.localsAt k)
  | framePointer : WordSource i s s.fp
  | nextPc {v : Int} (h : v = s.pc + (1 + i.operands.length)) : WordSource i s v

variable {i : Instr} {s t : State}

theorem Effect.params (h : Effect i s t) : t.params = s.params := by
  cases i with
  | halt => obtain rfl := h; rfl
  | const | add | sub | mul | lt | eq | jmp | pop | print => obtain ⟨-, rfl⟩ := h; rfl
  | load | store | gload | gstore | call => obtain ⟨-, -, rfl⟩ := h; rfl
  | jmpt | jmpf => obtain ⟨-, ⟨-, -, rfl⟩ | ⟨-, rfl⟩⟩ := h <;> rfl
  | ret => obtain ⟨-, -, -, -, -, -, rfl⟩ := h; rfl

/-- pc goes past the instruction or to an index that was checked (R95, R121 to R123, R141, R143). -/
theorem Effect.pc (h : Effect i s t) :
    t.pc = s.pc + (1 + i.operands.length) ∨ s.legalReturn t.pc := by
  cases i with
  | halt => obtain rfl := h; exact .inl rfl
  | const | add | sub | mul | lt | eq | pop | print => obtain ⟨-, rfl⟩ := h; exact .inl rfl
  | load | store | gload | gstore => obtain ⟨-, -, rfl⟩ := h; exact .inl rfl
  | jmp => obtain ⟨⟨hlo, hhi⟩, rfl⟩ := h; exact .inr ⟨hlo, hhi.le⟩
  | call => obtain ⟨⟨hlo, hhi⟩, -, rfl⟩ := h; exact .inr ⟨hlo, hhi.le⟩
  | jmpt | jmpf =>
    obtain ⟨-, ⟨-, ⟨hlo, hhi⟩, rfl⟩ | ⟨-, rfl⟩⟩ := h
    · exact .inr ⟨hlo, hhi.le⟩
    · exact .inl rfl
  | ret => obtain ⟨-, -, -, -, -, hret, rfl⟩ := h; exact .inr hret

/-- A push is made with room for it, a pop with a word to pop (R91, R92, R143). -/
theorem Effect.keeps_spInStack (h : Effect i s t) (hsp : SpInStack s) : SpInStack t := by
  obtain ⟨hlo, hhi⟩ := hsp
  unfold SpInStack
  rw [h.params]
  cases i with
  | halt => obtain rfl := h; exact ⟨hlo, hhi⟩
  | jmp => obtain ⟨-, rfl⟩ := h; exact ⟨hlo, hhi⟩
  | gload => obtain ⟨-, -, rfl⟩ := h; exact ⟨hlo, hhi⟩
  | const | add | sub | mul | lt | eq | pop | print =>
    obtain ⟨hcheck, rfl⟩ := h; constructor <;> dsimp only <;> omega
  | store | gstore => obtain ⟨hdepth, -, rfl⟩ := h; constructor <;> dsimp only <;> omega
  | load | call => obtain ⟨-, hroom, rfl⟩ := h; constructor <;> dsimp only <;> omega
  | jmpt | jmpf =>
    obtain ⟨hdepth, ⟨-, -, rfl⟩ | ⟨-, rfl⟩⟩ := h <;> constructor <;> dsimp only <;> omega
  | ret => obtain ⟨-, -, hframe, hargc, hbase, -, rfl⟩ := h; constructor <;> dsimp only <;> omega

/-- Only HALT touches the engine's state (R153). -/
theorem Effect.engine (h : Effect i s t) :
    (t.fsm = s.fsm ∧ t.cause = s.cause) ∨ (t.fsm = .halted ∧ t.cause = .haltInstruction) := by
  cases i with
  | halt => obtain rfl := h; exact .inr ⟨rfl, rfl⟩
  | const | add | sub | mul | lt | eq | jmp | pop | print =>
    obtain ⟨-, rfl⟩ := h; exact .inl ⟨rfl, rfl⟩
  | load | store | gload | gstore | call => obtain ⟨-, -, rfl⟩ := h; exact .inl ⟨rfl, rfl⟩
  | jmpt | jmpf => obtain ⟨-, ⟨-, -, rfl⟩ | ⟨-, rfl⟩⟩ := h <;> exact .inl ⟨rfl, rfl⟩
  | ret => obtain ⟨-, -, -, -, -, -, rfl⟩ := h; exact .inl ⟨rfl, rfl⟩

/-- fp stays, becomes the new sp (CALL), or is read from the stack (RET) (R26). -/
theorem Effect.fp (h : Effect i s t) :
    t.fp = s.fp ∨ t.fp = t.sp ∨ t.fp = s.stackAt (s.fp - 1) := by
  cases i with
  | call => obtain ⟨-, -, rfl⟩ := h; exact .inr (.inl rfl)
  | ret => obtain ⟨-, -, -, -, -, -, rfl⟩ := h; exact .inr (.inr rfl)
  | halt => obtain rfl := h; exact .inl rfl
  | const | add | sub | mul | lt | eq | jmp | pop | print => obtain ⟨-, rfl⟩ := h; exact .inl rfl
  | load | store | gload | gstore => obtain ⟨-, -, rfl⟩ := h; exact .inl rfl
  | jmpt | jmpf => obtain ⟨-, ⟨-, -, rfl⟩ | ⟨-, rfl⟩⟩ := h <;> exact .inl rfl

/-- The output stays or grows by the top word (R32, R152). -/
theorem Effect.out (h : Effect i s t) : t.out = s.out ∨ t.out = s.out ++ [s.stackAt s.sp] := by
  cases i with
  | print => obtain ⟨-, rfl⟩ := h; exact .inr rfl
  | halt => obtain rfl := h; exact .inl rfl
  | const | add | sub | mul | lt | eq | jmp | pop => obtain ⟨-, rfl⟩ := h; exact .inl rfl
  | load | store | gload | gstore | call => obtain ⟨-, -, rfl⟩ := h; exact .inl rfl
  | jmpt | jmpf => obtain ⟨-, ⟨-, -, rfl⟩ | ⟨-, rfl⟩⟩ := h <;> exact .inl rfl
  | ret => obtain ⟨-, -, -, -, -, -, rfl⟩ := h; exact .inl rfl

/-- Every slot of the stack that an instruction writes exists, and the word has a source. -/
theorem Effect.stack_writes (h : Effect i s t) (hsp : SpInStack s) :
    Memory.Writes s.params.stackCap (WordSource i s) s.stack t.stack := by
  obtain ⟨hlo, hhi⟩ := hsp
  cases i with
  | const => obtain ⟨hroom, rfl⟩ := h; exact .one (by omega) (.operand (.head _))
  | add | sub | mul => obtain ⟨hdepth, rfl⟩ := h; exact .one (by omega) (.wrapped _)
  | lt | eq => obtain ⟨hdepth, rfl⟩ := h; exact .one (by omega) (.flag _)
  | load => obtain ⟨-, hroom, rfl⟩ := h; exact .one (by omega) (.stackSlot _)
  | gload => obtain ⟨hdepth, -, rfl⟩ := h; exact .one (by omega) (.localsSlot _)
  | call =>
    obtain ⟨-, hroom, rfl⟩ := h
    exact ((Memory.Writes.one (by omega) (.operand (.tail _ (.head _)))).more
      (by omega) .framePointer).more (by omega) (.nextPc rfl)
  | ret =>
    obtain ⟨-, -, hframe, hargc, hbase, -, rfl⟩ := h
    exact .one (by omega) (.stackSlot _)
  | halt => obtain rfl := h; exact .none
  | jmp | pop | print => obtain ⟨-, rfl⟩ := h; exact .none
  | store | gstore => obtain ⟨-, -, rfl⟩ := h; exact .none
  | jmpt | jmpf => obtain ⟨-, ⟨-, -, rfl⟩ | ⟨-, rfl⟩⟩ := h <;> exact .none

/-- Every slot of the locals store that an instruction writes exists, and the word has a source. -/
theorem Effect.locals_writes (h : Effect i s t) :
    Memory.Writes s.params.localsSize (WordSource i s) s.locals t.locals := by
  cases i with
  | store | gstore =>
    obtain ⟨-, ⟨hlo, hhi⟩, rfl⟩ := h
    exact .one (by omega) (.stackSlot _)
  | halt => obtain rfl := h; exact .none
  | const | add | sub | mul | lt | eq | jmp | pop | print => obtain ⟨-, rfl⟩ := h; exact .none
  | load | gload | call => obtain ⟨-, -, rfl⟩ := h; exact .none
  | jmpt | jmpf => obtain ⟨-, ⟨-, -, rfl⟩ | ⟨-, rfl⟩⟩ := h <;> exact .none
  | ret => obtain ⟨-, -, -, -, -, -, rfl⟩ := h; exact .none

end Sys2Proof.Machine
end

section
/-! ### The invariant of the whole machine (R7, R8, R23, R25, R28 to R30)

Every move of `StepCase` keeps `Inv`: the engine's own moves change fsm and cause of a state that is
not terminal, a reset builds the state anew, and an instruction has the effects above. -/

namespace Sys2Proof.Machine

variable {s t : State}

theorem terminal_eq_false_iff : s.terminal = false ↔ s.fsm ≠ .halted ∧ s.fsm ≠ .faulted := by
  unfold State.terminal
  cases s.fsm <;> decide

/-- Outside the terminal states the cause is None (R28). -/
theorem CauseAgrees.eq_none (h : CauseAgrees s) (hrun : s.terminal = false) : s.cause = .none := by
  obtain ⟨hhalt, hfault⟩ := terminal_eq_false_iff.mp hrun
  unfold CauseAgrees at h
  cases hc : s.cause with
  | none => rfl
  | haltInstruction | endOfProgram | cancelled => rw [hc] at h; exact absurd h hhalt
  | invalidOpcode | stackOverflow | stackUnderflow | outOfBoundsJump | configurationError =>
    rw [hc] at h; exact absurd h hfault

/-- Outside the terminal states pc is in the program (R23). -/
theorem PcInProgram.legalReturn (h : PcInProgram s) (hrun : s.terminal = false) :
    s.legalReturn s.pc :=
  h.resolve_left fun hconf => (terminal_eq_false_iff.mp hrun).2 hconf.1

/-- Each of the causes that an instruction's checks raise goes with `Faulted` (R28, R160). -/
theorem CheckFailed.exists_causeAgrees (h : CheckFailed s t) :
    ∃ c, t = s.faultedWith c ∧ CauseAgrees (s.faultedWith c) := by
  obtain ⟨c, rfl | rfl | rfl, e⟩ := h <;> exact ⟨_, e, rfl⟩

theorem Inv.consume (hs : Inv s) : Inv s.consume :=
  ⟨hs.params, hs.pc, hs.sp, hs.cause, hs.stack, hs.locals, hs.words⟩

/-- Starting, stopping and faulting keep the invariant: they change fsm and cause alone, and the pc
of a state that is not terminal is in the program. -/
theorem Inv.withEngine (hs : Inv s) (hrun : s.terminal = false) {f : Fsm} {c : Cause}
    (hc : CauseAgrees { s with fsm := f, cause := c }) : Inv { s with fsm := f, cause := c } :=
  ⟨hs.params, .inr (hs.pc.legalReturn hrun), hs.sp, hc, hs.stack, hs.locals, hs.words⟩

theorem Inv.start (hs : Inv s) (hrun : s.terminal = false) : Inv s.start := by
  refine hs.withEngine hrun ?_
  rw [hs.cause.eq_none hrun]
  rfl

/-- A reset with legal parameters has the invariant (R40, R192). -/
theorem inv_construct {p : Params} (hv : p.valid) (inputs : List HostInput) :
    Inv (construct p inputs) := by
  obtain ⟨hp, hpc, hsp, hfp, hstack, hlocals, hout, -, hengine⟩ := construct_fields p inputs
  have hsp0 : FitsWord p.w (-1) := fitsWord_of_le_size (Nat.two_pow_pos _) le_rfl (by decide)
  have ⟨_, _, _, _, _, hstart, _⟩ := hv
  refine ⟨hp.symm ▸ hv, ?_, ?_, ?_, hstack ▸ Memory.reset_within _,
    hlocals ▸ Memory.reset_within _, ?_⟩
  · unfold PcInProgram State.legalReturn State.progLen
    rw [hp, hpc]
    rcases hengine with ⟨hlo, hhi, -⟩ | ⟨-, hf, hc⟩
    · exact .inr ⟨hlo, hhi.le⟩
    · exact .inl ⟨hf, hc⟩
  · unfold SpInStack
    rw [hp, hsp]
    omega
  · unfold CauseAgrees State.terminal
    rcases hengine with ⟨-, -, hf, hc⟩ | ⟨-, hf, hc⟩ <;> rw [hc, hf]
  · unfold WordsFit
    rw [hp, hpc, hsp, hfp, hstack, hlocals, hout]
    exact ⟨hstart, hsp0, fitsWord_zero _, by simp, by simp, by simp⟩

/-- The pc of a fetched instruction's next state is in the program (R23). -/
theorem Effect.pc_legal {i : Instr} {rest : List Int} (h : Effect i s t) (h0 : 0 ≤ s.pc)
    (hf : fetch s = .ok i rest) : s.legalReturn t.pc := by
  have hend := pc_add_length_le_of_fetch h0 hf
  rcases h.pc with e | hlegal
  · rw [e]; exact ⟨by omega, hend⟩
  · exact hlegal

/-- Every word a fetched instruction writes to a memory is a `W`-bit word. -/
theorem WordSource.fitsWord {i : Instr} {rest : List Int} {v : Int} (hs : Inv s) (h0 : 0 ≤ s.pc)
    (hf : fetch s = .ok i rest) (h : WordSource i s v) : FitsWord s.params.w v := by
  obtain ⟨hw, -, -, hlen, hprog, -⟩ := hs.params
  obtain ⟨-, -, hfp, hstack, hlocals, -⟩ := hs.words
  cases h with
  | operand ha => exact hprog _ (mem_prog_of_fetch hf ha)
  | wrapped z => exact fitsWord_wrap (by omega) z
  | flag b => exact fitsWord_boolWord hw b
  | stackSlot k => exact Memory.fitsWord_read hstack _
  | localsSlot k => exact Memory.fitsWord_read hlocals _
  | framePointer => exact hfp
  | nextPc e =>
    have hend := pc_add_length_le_of_fetch h0 hf
    exact fitsWord_of_le_size hlen (by omega) (e ▸ hend)

/-- Registers, slots and emitted values stay `W`-bit words (R8). -/
theorem Effect.keeps_wordsFit {i : Instr} {rest : List Int} (h : Effect i s t) (hs : Inv s)
    (h0 : 0 ≤ s.pc) (hf : fetch s = .ok i rest) : WordsFit t := by
  obtain ⟨-, hcap, -, hlen, -⟩ := hs.params
  obtain ⟨-, -, hfp, hstack, hlocals, hout⟩ := hs.words
  obtain ⟨hpc0, hpcN⟩ := h.pc_legal h0 hf
  obtain ⟨hsplo, hsphi⟩ := h.keeps_spInStack hs.sp
  have hsource := fun v => WordSource.fitsWord (v := v) hs h0 hf
  have hread (k : Int) : FitsWord s.params.w (s.stackAt k) := Memory.fitsWord_read hstack _
  rw [h.params] at hsphi
  have hsp : FitsWord s.params.w t.sp := fitsWord_of_le_size hcap hsplo (by omega)
  unfold WordsFit
  rw [h.params]
  refine ⟨fitsWord_of_le_size hlen (by omega) hpcN, hsp, ?_,
    (h.stack_writes hs.sp).keeps_forall hsource hstack,
    h.locals_writes.keeps_forall hsource hlocals, ?_⟩
  · rcases h.fp with e | e | e <;> rw [e]
    exacts [hfp, hsp, hread _]
  · rcases h.out with e | e <;> rw [e]
    · exact hout
    · exact List.forall_mem_append.mpr ⟨hout, List.forall_mem_singleton.mpr (hread _)⟩

theorem Effect.keeps_causeAgrees {i : Instr} (h : Effect i s t) (hc : CauseAgrees s) :
    CauseAgrees t := by
  unfold CauseAgrees State.terminal at hc ⊢
  rcases h.engine with ⟨ef, ec⟩ | ⟨ef, ec⟩ <;> rw [ef, ec]
  exact hc

/-- A fetched instruction that passes its checks keeps the invariant. -/
theorem Inv.effect {i : Instr} {rest : List Int} (hs : Inv s) (h0 : 0 ≤ s.pc)
    (hf : fetch s = .ok i rest) (h : Effect i s t) : Inv t where
  params := h.params ▸ hs.params
  pc := .inr (by
    unfold State.legalReturn State.progLen
    rw [h.params]
    exact h.pc_legal h0 hf)
  sp := h.keeps_spInStack hs.sp
  cause := h.keeps_causeAgrees hs.cause
  stack := h.params ▸ (h.stack_writes hs.sp).keeps_within hs.stack
  locals := h.params ▸ h.locals_writes.keeps_within hs.locals
  words := h.keeps_wordsFit hs h0 hf

/-- Settles O45, by the seven moves of a step. -/
theorem everyStepKeepsTheInvariant : Obligations.EveryStepKeepsTheInvariant := by
  intro s t hs h
  cases step_cases h with
  | quiet _ _ _ _ e => subst e; exact hs.consume
  | cancelled _ hrun e => subst e; exact hs.consume.withEngine hrun rfl
  | endOfProgram _ hrun _ e => subst e; exact hs.consume.withEngine hrun rfl
  | badFetch hf c hc e =>
    obtain ⟨hrun, -⟩ := hf
    subst e
    refine hs.consume.withEngine hrun ?_
    rcases hc with ⟨-, rfl⟩ | ⟨-, rfl⟩ <;> rfl
  | ran hf i rest hd e =>
    obtain ⟨hrun, -, hpc, -⟩ := hf
    have hstart : Inv s.consume.start := hs.consume.start hrun
    rcases exec_cases e with hfault | heffect
    · obtain ⟨c, rfl, hc⟩ := hfault.exists_causeAgrees
      exact hstart.withEngine rfl hc
    · exact hstart.effect hpc hd heffect
  | rst _ e => subst e; exact inv_construct hs.params _
  | construct p _ hv _ e => subst e; exact inv_construct hv _

end Sys2Proof.Machine
end

section
/-! ### Dead stack slots (R29, R35)

A relational proof: every update of the state keeps `SameButDead`, a check has the same outcome in two
states so related, and so every instruction, and every move of the host, ends alike in both. -/

namespace Sys2Proof.Machine

variable {s t : State}

theorem SameButDead.refl (s : State) : SameButDead s s := ⟨rfl, fun _ _ => rfl⟩

section fields
/-! Every field but the stack memory is the same, and so is every live slot. -/

/-- What does not depend on the stack memory is the same. -/
theorem SameButDead.field (h : SameButDead s t) {α : Type} {f : State → α}
    (hf : ∀ m, f { s with stack := m } = f s) : f t = f s := by
  obtain ⟨e, -⟩ := h
  rw [e, hf]

theorem SameButDead.params (h : SameButDead s t) : t.params = s.params := h.field fun _ => rfl
theorem SameButDead.pc (h : SameButDead s t) : t.pc = s.pc := h.field fun _ => rfl
theorem SameButDead.sp (h : SameButDead s t) : t.sp = s.sp := h.field fun _ => rfl
theorem SameButDead.fp (h : SameButDead s t) : t.fp = s.fp := h.field fun _ => rfl
theorem SameButDead.inputs (h : SameButDead s t) : t.inputs = s.inputs := h.field fun _ => rfl
theorem SameButDead.progLen (h : SameButDead s t) : t.progLen = s.progLen :=
  h.field fun _ => rfl
theorem SameButDead.terminal (h : SameButDead s t) : t.terminal = s.terminal :=
  h.field fun _ => rfl
theorem SameButDead.nextInput (h : SameButDead s t) : t.nextInput = s.nextInput :=
  h.field fun _ => rfl
theorem SameButDead.fetch (h : SameButDead s t) : fetch t = fetch s :=
  h.field fun _ => rfl
theorem SameButDead.frameIndex (h : SameButDead s t) (a1 : Int) :
    t.frameIndex a1 = s.frameIndex a1 :=
  h.field (f := (State.frameIndex · a1)) fun _ => rfl
theorem SameButDead.localsAt (h : SameButDead s t) (i : Int) : t.localsAt i = s.localsAt i :=
  h.field (f := (State.localsAt · i)) fun _ => rfl

theorem SameButDead.stackAt (h : SameButDead s t) {i : Int} (hlive : s.liveSlot i) :
    t.stackAt i = s.stackAt i := by
  obtain ⟨hlo, hhi⟩ := hlive
  exact h.2 i.toNat (by omega)

theorem SameButDead.top (h : SameButDead s t) (hdepth : 0 ≤ s.sp) : t.top = s.top := by
  unfold State.top
  rw [h.sp, h.stackAt ⟨hdepth, le_rfl⟩]

theorem SameButDead.below (h : SameButDead s t) (hdepth : 1 ≤ s.sp) : t.below = s.below := by
  unfold State.below
  rw [h.sp, h.stackAt ⟨by omega, by omega⟩]

end fields

section updates
/-! Every update keeps the relation. An update of another field leaves sp and the stack memory alone;
a slot that becomes live was live before or has just been written with the same word. -/

theorem SameButDead.consume (h : SameButDead s t) : SameButDead s.consume t.consume :=
  ⟨congrArg State.consume h.1, h.2⟩
theorem SameButDead.start (h : SameButDead s t) : SameButDead s.start t.start :=
  ⟨congrArg State.start h.1, h.2⟩
theorem SameButDead.stop (h : SameButDead s t) (c : Cause) : SameButDead (s.stop c) (t.stop c) :=
  ⟨congrArg (State.stop · c) h.1, h.2⟩
theorem SameButDead.faultedWith (h : SameButDead s t) (c : Cause) :
    SameButDead (s.faultedWith c) (t.faultedWith c) :=
  ⟨congrArg (State.faultedWith · c) h.1, h.2⟩
theorem SameButDead.setPc (h : SameButDead s t) (a : Int) : SameButDead (s.setPc a) (t.setPc a) :=
  ⟨congrArg (State.setPc · a) h.1, h.2⟩
theorem SameButDead.setFp (h : SameButDead s t) (v : Int) : SameButDead (s.setFp v) (t.setFp v) :=
  ⟨congrArg (State.setFp · v) h.1, h.2⟩
theorem SameButDead.advance (h : SameButDead s t) (n : Nat) :
    SameButDead (s.advance n) (t.advance n) :=
  ⟨congrArg (State.advance · n) h.1, h.2⟩
theorem SameButDead.setLocals (h : SameButDead s t) (i v : Int) :
    SameButDead (s.setLocals i v) (t.setLocals i v) :=
  ⟨congrArg (State.setLocals · i v) h.1, h.2⟩
theorem SameButDead.emit (h : SameButDead s t) (v : Int) : SameButDead (s.emit v) (t.emit v) :=
  ⟨congrArg (State.emit · v) h.1, h.2⟩

/-- A write and a move of sp: each slot that is live after was live before or is the one written. -/
theorem SameButDead.setStack_setSp (h : SameButDead s t) {i j : Int} (v : Int)
    (hlive : ∀ k : Nat, (k : Int) ≤ j → k = i.toNat ∨ (k : Int) ≤ s.sp) :
    SameButDead ((s.setStack i v).setSp j) ((t.setStack i v).setSp j) := by
  refine ⟨congrArg (fun u => { u with sp := j, stack := t.stack.write i.toNat v }) h.1,
    fun k hk => ?_⟩
  simp only [State.setSp_stack, State.setStack_stack, Memory.read_write]
  split
  · rfl
  · next hne => exact h.2 k ((hlive k hk).resolve_left hne)

theorem SameButDead.setStack (h : SameButDead s t) (i v : Int) :
    SameButDead (s.setStack i v) (t.setStack i v) :=
  ⟨congrArg (fun u => { u with stack := t.stack.write i.toNat v }) h.1, fun k hk => by
    simp only [State.setStack_stack, Memory.read_write, h.2 k hk]⟩

theorem SameButDead.push (h : SameButDead s t) (v : Int) : SameButDead (s.push v) (t.push v) := by
  unfold State.push
  rw [h.sp]
  exact h.setStack_setSp v fun k hk => by omega

theorem SameButDead.drop (h : SameButDead s t) : SameButDead s.drop t.drop :=
  ⟨congrArg State.drop h.1, fun k hk => h.2 k (by rw [State.drop_sp] at hk; omega)⟩

end updates

section checks
/-! A check that holds in both states or in neither raises the same fault in both. -/

theorem SameButDead.next (h : SameButDead s t) : OutcomesRelated SameButDead (.next s) (.next t) := h

theorem SameButDead.require (h : SameButDead s t) {c c' : Prop} [Decidable c] [Decidable c']
    {x : Cause} {k k' : Result} (hc : c' ↔ c) (hk : c → OutcomesRelated SameButDead k k') :
    OutcomesRelated SameButDead (require c x s k) (require c' x t k') := by
  by_cases hholds : c
  · rw [require_pos hholds, require_pos (hc.mpr hholds)]; exact hk hholds
  · rw [require_neg hholds, require_neg (mt hc.mp hholds)]; exact h.faultedWith x

theorem SameButDead.requireRoom (h : SameButDead s t) {n : Nat} {k k' : Result}
    (hk : OutcomesRelated SameButDead k k') :
    OutcomesRelated SameButDead (requireRoom n s k) (requireRoom n t k') :=
  h.require (by rw [h.sp, h.params]) fun _ => hk

theorem SameButDead.requireDepth (h : SameButDead s t) {n : Nat} {k k' : Result}
    (hk : (n : Int) - 1 ≤ s.sp → OutcomesRelated SameButDead k k') :
    OutcomesRelated SameButDead (requireDepth n s k) (requireDepth n t k') :=
  h.require (by rw [h.sp]) hk

theorem SameButDead.legalTarget (h : SameButDead s t) (a : Int) :
    t.legalTarget a ↔ s.legalTarget a := by
  unfold State.legalTarget; rw [h.progLen]

theorem SameButDead.legalReturn (h : SameButDead s t) (a : Int) :
    t.legalReturn a ↔ s.legalReturn a := by
  unfold State.legalReturn; rw [h.progLen]

theorem SameButDead.localsSlot (h : SameButDead s t) (i : Int) :
    t.localsSlot i ↔ s.localsSlot i := by
  unfold State.localsSlot; rw [h.params]

theorem SameButDead.liveSlot (h : SameButDead s t) (i : Int) : t.liveSlot i ↔ s.liveSlot i := by
  unfold State.liveSlot; rw [h.sp]

end checks

section instructions

theorem SameButDead.binaryOp (h : SameButDead s t) (op : Nat → Int → Int → Int) :
    OutcomesRelated SameButDead (binaryOp (op s.params.w) s) (binaryOp (op t.params.w) t) :=
  h.requireDepth fun hdepth => by
    have hdepth : 1 ≤ s.sp := hdepth
    rw [h.params, h.sp, h.below hdepth, h.top (by omega)]
    exact ((h.setStack_setSp _ fun k hk => by omega).advance 1).next

theorem SameButDead.branchIf (h : SameButDead s t) (test : Int → Bool) (a1 : Int) :
    OutcomesRelated SameButDead (branchIf test a1 s) (branchIf test a1 t) :=
  h.requireDepth fun hdepth => by
    rw [h.top hdepth]
    split
    · exact h.require (h.legalTarget a1) fun _ => (h.drop.setPc a1).next
    · exact (h.drop.advance 2).next

theorem SameButDead.storeLocals (h : SameButDead s t) (i : Int) :
    OutcomesRelated SameButDead (storeLocals i s) (storeLocals i t) :=
  h.requireDepth fun hdepth => h.require (h.localsSlot i) fun _ => by
    rw [h.top hdepth]
    exact ((h.setLocals i s.top).drop.advance 2).next

theorem SameButDead.execStore (h : SameButDead s t) (a1 : Int) :
    OutcomesRelated SameButDead (execStore a1 s) (execStore a1 t) := by
  unfold Machine.execStore
  rw [h.frameIndex]
  exact h.storeLocals _

theorem SameButDead.execLoad (h : SameButDead s t) (a1 : Int) :
    OutcomesRelated SameButDead (execLoad a1 s) (execLoad a1 t) := by
  unfold Machine.execLoad
  rw [h.frameIndex]
  refine h.require (h.liveSlot _) fun hlive => h.requireRoom ?_
  rw [h.stackAt hlive]
  exact ((h.push _).advance 2).next

theorem SameButDead.execGload (h : SameButDead s t) :
    OutcomesRelated SameButDead (execGload s) (execGload t) :=
  h.requireDepth fun hdepth => by
    rw [h.top hdepth, h.localsAt, h.sp]
    exact h.require (h.localsSlot _) fun _ => ((h.setStack _ _).advance 1).next

theorem SameButDead.execCall (h : SameButDead s t) (a1 a2 : Int) :
    OutcomesRelated SameButDead (execCall a1 a2 s) (execCall a1 a2 t) :=
  h.require (h.legalTarget a1) fun _ => h.requireRoom <| by
    rw [h.fp, h.pc, h.sp]
    exact (((((h.push a2).push s.fp).push (s.pc + 3)).setFp (s.sp + 3)).setPc a1).next

/-- RET reads the top word and the three words of the frame, and its checks come before each read: all
four lie between slot 0 and sp (R143). -/
theorem SameButDead.execRet (h : SameButDead s t) :
    OutcomesRelated SameButDead (execRet s) (execRet t) :=
  h.requireDepth fun hdepth => h.require (by rw [h.fp]) fun hfp =>
    h.require (by rw [h.fp, h.sp]) fun hframe => by
      have hargc : t.frameArgc = s.frameArgc := by
        unfold State.frameArgc; rw [h.fp, h.stackAt ⟨by omega, by omega⟩]
      have hsaved : t.frameSavedFp = s.frameSavedFp := by
        unfold State.frameSavedFp; rw [h.fp, h.stackAt ⟨by omega, by omega⟩]
      have hreturn : t.frameReturnPc = s.frameReturnPc := by
        unfold State.frameReturnPc; rw [h.fp, h.stackAt ⟨by omega, by omega⟩]
      have hslot : t.returnSlot = s.returnSlot := by
        unfold State.returnSlot; rw [h.fp, hargc]
      rw [hargc, hsaved, hreturn, hslot, h.fp, h.top hdepth]
      refine h.require .rfl fun hargc0 => h.require .rfl fun _ =>
        h.require (h.legalReturn _) fun _ => ?_
      have hlow : s.returnSlot ≤ s.sp := by unfold State.returnSlot; omega
      exact (((h.setStack_setSp _ fun k hk => .inr (hk.trans hlow)).setFp _).setPc _).next

/-- Every instruction ends alike in two states that differ in dead slots only. -/
theorem SameButDead.exec (h : SameButDead s t) (i : Instr) :
    OutcomesRelated SameButDead (exec i s) (exec i t) := by
  cases i with
  | const a1 => exact h.requireRoom ((h.push a1).advance 2).next
  | add => exact h.binaryOp addWord
  | sub => exact h.binaryOp subWord
  | mul => exact h.binaryOp mulWord
  | lt => exact h.binaryOp fun _ => ltWord
  | eq => exact h.binaryOp fun _ b a => eqWord a b
  | jmp a1 => exact h.require (h.legalTarget a1) fun _ => (h.setPc a1).next
  | jmpt a1 => exact h.branchIf _ a1
  | jmpf a1 => exact h.branchIf _ a1
  | load a1 => exact h.execLoad a1
  | store a1 => exact h.execStore a1
  | gload => exact h.execGload
  | gstore a1 => exact h.storeLocals a1
  | call a1 a2 => exact h.execCall a1 a2
  | ret => exact h.execRet
  | pop => exact h.requireDepth fun _ => (h.drop.advance 1).next
  | print =>
    refine h.requireDepth fun hdepth => ?_
    rw [h.top hdepth]
    exact ((h.emit _).drop.advance 1).next
  | halt => exact ((h.stop _).advance 1).next

end instructions

section moves

theorem SameButDead.runFetched (h : SameButDead s t) (d : Decoded) :
    OutcomesRelated SameButDead (runFetched d s) (runFetched d t) := by
  cases d with
  | ok i rest => exact h.exec i
  | invalidOpcode => exact (h.faultedWith .invalidOpcode).next
  | truncated => exact (h.faultedWith .outOfBoundsJump).next
  | endOfProgram => exact (h.stop .endOfProgram).next

theorem SameButDead.engineStep (h : SameButDead s t) (runEn cancel : Bool) :
    OutcomesRelated SameButDead (engineStep runEn cancel s) (engineStep runEn cancel t) := by
  unfold Machine.engineStep
  rw [h.terminal, h.pc, h.progLen, h.fetch]
  split_ifs
  · exact h.next
  · exact h.next
  · exact (h.start.stop .cancelled).next
  · rfl
  · exact h.start.runFetched _

theorem SameButDead.hostConstruct (h : SameButDead s t) (p : Params) :
    OutcomesRelated SameButDead (hostConstruct p s) (hostConstruct p t) := by
  unfold Machine.hostConstruct
  rw [h.terminal, h.params, h.inputs]
  split
  · rfl
  · split
    · rfl
    · exact (SameButDead.refl _).next

theorem SameButDead.stepWith (h : SameButDead s t) (x : HostInput) :
    OutcomesRelated SameButDead (stepWith x s) (stepWith x t) := by
  cases x with
  | clock runEn cancel => exact h.engineStep runEn cancel
  | rst =>
    unfold Machine.stepWith
    dsimp only
    rw [h.params, h.inputs]
    exact (SameButDead.refl _).next
  | construct p => exact h.hostConstruct p

end moves

/-- Settles O50: the two states take the same input, and each move keeps the relation. -/
theorem deadSlotsAreUnobservable : Obligations.DeadSlotsAreUnobservable := by
  intro s t h
  unfold step
  rw [h.nextInput]
  exact h.consume.stepWith s.nextInput

end Sys2Proof.Machine
end

section
/-! ### Reset (R40, R190 to R192)

The values of `construct_fields`, and the parts of the invariant that hold whatever the parameters. -/

namespace Sys2Proof.Machine

/-- Settles O17: the host may make this move, and `construct` leaves the values of R40. -/
theorem constructLeavesTheResetValues : Obligations.ConstructLeavesTheResetValues := by
  intro s p hi hv hmay
  obtain ⟨hp, hpc, hsp, hfp, -, hlocals, hout, hinputs, hengine⟩ :=
    construct_fields p s.inputs.tail
  refine ⟨_, ?_, hp, hpc, hsp, hfp, fun i => ?_, fun i hlive => ?_, hout, hinputs, ?_⟩
  · rw [step_construct hi]
    rcases hostConstruct_cases p s.consume with ⟨hv', -⟩ | ⟨-, hrun, hne, -⟩ | ⟨-, -, e⟩
    · exact absurd hv hv'
    · rcases hmay with hterm | heq
      · rw [terminal_consume, hterm] at hrun; cases hrun
      · exact absurd heq hne
    · exact e
  · rw [State.localsAt, hlocals]; rfl
  · obtain ⟨hlo, hhi⟩ := hlive
    omega
  · rcases hengine with ⟨hlo, hhi, hready⟩ | ⟨hbad, hfaulted⟩
    · rw [if_pos ⟨hlo, hhi⟩]; exact hready
    · rw [if_neg hbad]; exact hfaulted

theorem pcInProgram_construct (p : Params) (inputs : List HostInput) :
    PcInProgram (construct p inputs) := by
  obtain ⟨hp, hpc, -, -, -, -, -, -, ⟨hlo, hhi, -⟩ | ⟨-, hfaulted⟩⟩ := construct_fields p inputs
  · unfold PcInProgram State.legalReturn State.progLen
    rw [hp, hpc]
    exact .inr ⟨hlo, hhi.le⟩
  · exact .inl hfaulted

theorem spInStack_construct (p : Params) (inputs : List HostInput) :
    SpInStack (construct p inputs) := by
  obtain ⟨hp, -, hsp, -⟩ := construct_fields p inputs
  unfold SpInStack
  rw [hp, hsp]
  omega

theorem causeAgrees_construct (p : Params) (inputs : List HostInput) :
    CauseAgrees (construct p inputs) := by
  obtain ⟨-, -, -, -, -, -, -, -, ⟨-, -, hf, hc⟩ | ⟨-, hf, hc⟩⟩ := construct_fields p inputs <;>
  · unfold CauseAgrees State.terminal
    rw [hc, hf]

theorem unloaded_valid : Config.unloaded.valid := by decide

/-- Settles O46: `State.reset` is the reset of R190 with the legal parameters `Config.unloaded`. -/
theorem resetHasTheInvariant : Obligations.ResetHasTheInvariant :=
  ⟨reset_eq_construct ▸ inv_construct unloaded_valid [], fun _ inputs hv => inv_construct hv inputs⟩

end Sys2Proof.Machine
end

section
/-! ### What a step does to the state, by kind of move

The seven moves of `StepCase` are of four kinds, and of the moves of `Step` only a fetched instruction
that passes its checks changes more than the engine's own two registers. -/

namespace Sys2Proof.Machine

variable {s t : State}

/-- The four kinds of moves of a step. -/
inductive MoveKind (s t : State) : Prop where
  /-- The engine is terminal or held (R99, R101). -/
  | idle (e : t = s.consume)
  /-- The engine stops or faults: only fsm and cause change (R93, R94, R165), to a pair of R28's
  table. -/
  | engine (hrun : s.terminal = false) (f : Fsm) (c : Cause)
      (e : t = { s.consume with fsm := f, cause := c }) (hc : CauseAgrees t)
  /-- A fetched instruction takes its effect (R97). -/
  | effect (hrun : s.terminal = false) (hpc : 0 ≤ s.pc) (i : Instr) (rest : List Int)
      (hd : fetch s = .ok i rest) (h : Effect i s.consume.start t)
  /-- A reset (R190, R191). -/
  | reset (hi : s.nextInput.isClock = false) (p : Params) (e : t = construct p s.inputs.tail)

theorem step_moveKind (h : step s = .next t) : MoveKind s t := by
  cases step_cases h with
  | quiet _ _ _ _ e => exact .idle e
  | cancelled _ hrun e => exact .engine hrun _ _ e (e ▸ rfl)
  | endOfProgram _ hrun _ e => exact .engine hrun _ _ e (e ▸ rfl)
  | badFetch hf c hc e =>
    obtain ⟨hrun, -⟩ := hf
    refine .engine hrun _ _ e ?_
    rcases hc with ⟨-, rfl⟩ | ⟨-, rfl⟩ <;> exact e ▸ rfl
  | ran hf i rest hd e =>
    obtain ⟨hrun, -, hpc, -⟩ := hf
    rcases exec_cases e with hfault | heffect
    · obtain ⟨c, e, hc⟩ := hfault.exists_causeAgrees
      exact .engine hrun _ _ e (e ▸ hc)
    · exact .effect hrun hpc i rest hd heffect
  | rst hi e => exact .reset (by rw [hi]; rfl) _ e
  | construct p hi _ _ e => exact .reset (by rw [hi]; rfl) p e

/-- A step of the engine leaves fp, the locals store and the output, or is the effect of the fetched
instruction. -/
theorem step_clock_keeps_or_effect {runEn cancel : Bool} (hi : s.nextInput = .clock runEn cancel)
    (h : step s = .next t) :
    (t.fp = s.fp ∧ t.locals = s.locals ∧ t.out = s.out) ∨
      ∃ i rest, fetch s = .ok i rest ∧ Effect i s.consume.start t := by
  cases step_moveKind h with
  | idle e => subst e; exact .inl ⟨rfl, rfl, rfl⟩
  | engine _ _ _ e _ => subst e; exact .inl ⟨rfl, rfl, rfl⟩
  | effect _ _ i rest hd heffect => exact .inr ⟨i, rest, hd, heffect⟩
  | reset hreset _ _ => rw [hi] at hreset; cases hreset

end Sys2Proof.Machine
end

section
/-! ### Invariants of a part of the state (R23, R25, R28 to R30) -/

namespace Sys2Proof.Machine

variable {s t : State}

theorem CauseAgrees.start (hc : CauseAgrees s) (hrun : s.terminal = false) :
    CauseAgrees s.start := by
  unfold CauseAgrees
  rw [State.start_cause, hc.eq_none hrun]
  rfl

/-- Settles O41. In a state that is not terminal pc is in the program, and there the engine leaves it
alone and an instruction advances or checks it. -/
theorem pcStaysInTheProgram : Obligations.PcStaysInTheProgram := by
  refine ⟨pcInProgram_construct, fun s t hs h => ?_⟩
  cases step_moveKind h with
  | idle e => subst e; exact hs
  | engine hrun _ _ e _ => subst e; exact .inr (hs.legalReturn hrun)
  | effect _ hpc i rest hd heffect =>
    have hlegal : s.consume.start.legalReturn t.pc := heffect.pc_legal hpc hd
    right
    unfold State.legalReturn State.progLen at hlegal ⊢
    rwa [heffect.params]
  | reset _ p e => subst e; exact pcInProgram_construct p _

/-- Settles O42. The engine leaves sp alone, and an instruction moves it within what it checked. -/
theorem spStaysInTheStack : Obligations.SpStaysInTheStack := by
  refine ⟨spInStack_construct, fun s t hs h => ?_⟩
  cases step_moveKind h with
  | idle e => subst e; exact hs
  | engine _ _ _ e _ => subst e; exact hs
  | effect _ _ i rest _ heffect => exact heffect.keeps_spInStack hs
  | reset _ p e => subst e; exact spInStack_construct p _

/-- Settles O43. The engine sets fsm and cause together, and of the instructions only HALT does. -/
theorem causeKeepsAgreeingWithTheEngine : Obligations.CauseKeepsAgreeingWithTheEngine := by
  intro s t hs h
  cases step_moveKind h with
  | idle e => subst e; exact hs
  | engine _ _ _ _ hc => exact hc
  | effect hrun _ i rest _ heffect =>
    have hconsume : CauseAgrees s.consume := hs
    exact heffect.keeps_causeAgrees (hconsume.start hrun)
  | reset _ p e => subst e; exact causeAgrees_construct p _

/-- Settles O44. Every slot an instruction writes lies inside its memory, and a reset empties both. -/
theorem stepKeepsTheMemoriesCanonical : Obligations.StepKeepsTheMemoriesCanonical := by
  intro s t hsp hstack hlocals h
  cases step_moveKind h with
  | idle e => subst e; exact ⟨hstack, hlocals⟩
  | engine _ _ _ e _ => subst e; exact ⟨hstack, hlocals⟩
  | effect _ _ i rest _ heffect =>
    rw [heffect.params]
    exact ⟨(heffect.stack_writes hsp).keeps_within hstack,
      heffect.locals_writes.keeps_within hlocals⟩
  | reset _ p e =>
    obtain ⟨-, -, -, -, hstack', hlocals', -⟩ := construct_fields p s.inputs.tail
    rw [e, hstack', hlocals']
    exact ⟨Memory.reset_within _, Memory.reset_within _⟩

end Sys2Proof.Machine
end

section
/-! ### Which instructions change fp, the locals store and the output (R26, R31, R32) -/

namespace Sys2Proof.Machine

variable {i : Instr} {s t : State}

theorem Effect.fp_eq_or_call_or_ret (h : Effect i s t) :
    t.fp = s.fp ∨ (∃ a1 a2, i = .call a1 a2) ∨ i = .ret := by
  cases i with
  | call a1 a2 => exact .inr (.inl ⟨a1, a2, rfl⟩)
  | ret => exact .inr (.inr rfl)
  | halt => obtain rfl := h; exact .inl rfl
  | const | add | sub | mul | lt | eq | jmp | pop | print => obtain ⟨-, rfl⟩ := h; exact .inl rfl
  | load | store | gload | gstore => obtain ⟨-, -, rfl⟩ := h; exact .inl rfl
  | jmpt | jmpf => obtain ⟨-, ⟨-, -, rfl⟩ | ⟨-, rfl⟩⟩ := h <;> exact .inl rfl

/-- Settles O47, by the effect of the fetched instruction. -/
theorem fpChangesOnlyInCallAndRet : Obligations.FpChangesOnlyInCallAndRet := by
  intro s t runEn cancel hi h
  rcases step_clock_keeps_or_effect hi h with ⟨hfp, -⟩ | ⟨i, rest, hd, heffect⟩
  · exact .inl hfp
  · rcases heffect.fp_eq_or_call_or_ret with hfp | ⟨a1, a2, rfl⟩ | rfl
    · exact .inl hfp
    · exact .inr (.inl ⟨a1, a2, rest, hd⟩)
    · exact .inr (.inr ⟨rest, hd⟩)

/-- The locals store changes by one write, of STORE at `fp + a1` or of GSTORE at `a1`. -/
theorem Effect.locals_eq_or_write (h : Effect i s t) :
    t.locals = s.locals ∨
      (∃ a1, i = .store a1 ∧ s.localsSlot (s.fp + a1) ∧
        t.locals = s.locals.write (s.fp + a1).toNat (s.stackAt s.sp)) ∨
      ∃ a1, i = .gstore a1 ∧ s.localsSlot a1 ∧
        t.locals = s.locals.write a1.toNat (s.stackAt s.sp) := by
  cases i with
  | store a1 => obtain ⟨-, hslot, rfl⟩ := h; exact .inr (.inl ⟨a1, rfl, hslot, rfl⟩)
  | gstore a1 => obtain ⟨-, hslot, rfl⟩ := h; exact .inr (.inr ⟨a1, rfl, hslot, rfl⟩)
  | halt => obtain rfl := h; exact .inl rfl
  | const | add | sub | mul | lt | eq | jmp | pop | print => obtain ⟨-, rfl⟩ := h; exact .inl rfl
  | load | gload | call => obtain ⟨-, -, rfl⟩ := h; exact .inl rfl
  | jmpt | jmpf => obtain ⟨-, ⟨-, -, rfl⟩ | ⟨-, rfl⟩⟩ := h <;> exact .inl rfl
  | ret => obtain ⟨-, -, -, -, -, -, rfl⟩ := h; exact .inl rfl

/-- Settles O48: a write leaves every other slot as it reads. -/
theorem localsChangeOnlyInStoreAndGstore : Obligations.LocalsChangeOnlyInStoreAndGstore := by
  intro s t runEn cancel hi h
  rcases step_clock_keeps_or_effect hi h with ⟨-, hlocals, -⟩ | ⟨i, rest, hd, heffect⟩
  · exact .inl hlocals
  · rcases heffect.locals_eq_or_write with hlocals | ⟨a1, rfl, ⟨hlo, hhi⟩, hwrite⟩ |
      ⟨a1, rfl, ⟨hlo, hhi⟩, hwrite⟩
    · exact .inl hlocals
    · exact .inr (.inl ⟨a1, rest, hd, hlo, hhi, fun k hk =>
        hwrite ▸ Memory.read_write_other _ _ hk⟩)
    · exact .inr (.inr ⟨a1, rest, hd, hlo, hhi, fun k hk =>
        hwrite ▸ Memory.read_write_other _ _ hk⟩)

theorem Effect.out_eq_or_print (h : Effect i s t) :
    t.out = s.out ∨ i = .print ∧ t.out = s.out ++ [s.stackAt s.sp] := by
  cases i with
  | print => obtain ⟨-, rfl⟩ := h; exact .inr ⟨rfl, rfl⟩
  | halt => obtain rfl := h; exact .inl rfl
  | const | add | sub | mul | lt | eq | jmp | pop => obtain ⟨-, rfl⟩ := h; exact .inl rfl
  | load | store | gload | gstore | call => obtain ⟨-, -, rfl⟩ := h; exact .inl rfl
  | jmpt | jmpf => obtain ⟨-, ⟨-, -, rfl⟩ | ⟨-, rfl⟩⟩ := h <;> exact .inl rfl
  | ret => obtain ⟨-, -, -, -, -, -, rfl⟩ := h; exact .inl rfl

/-- Settles O49, by the effect of the fetched instruction. -/
theorem onlyPrintGrowsTheOutput : Obligations.OnlyPrintGrowsTheOutput := by
  intro s t runEn cancel hi h
  rcases step_clock_keeps_or_effect hi h with ⟨-, -, hout⟩ | ⟨i, rest, hd, heffect⟩
  · exact .inl hout
  · rcases heffect.out_eq_or_print with hout | ⟨rfl, hout⟩
    · exact .inl hout
    · exact .inr ⟨⟨rest, hd⟩, hout⟩

end Sys2Proof.Machine
end

section
/-! ### The parameters of a run (R61, R197) -/

namespace Sys2Proof.Machine

theorem construct_params (p : Params) (inputs : List HostInput) :
    (construct p inputs).params = p :=
  (construct_fields p inputs).1

/-- No instruction changes the program or another parameter, whether it faults or takes its effect
(R61). -/
theorem exec_keeps_params {i : Instr} {s t : State} (h : exec i s = .next t) :
    t.params = s.params := by
  rcases exec_cases h with hfault | heffect
  · obtain ⟨c, -, rfl⟩ := hfault
    exact State.faultedWith_params s c
  · exact heffect.params

/-- Settles O21, by the seven moves of a step: only a `construct` brings parameters of its own, and it
is answered in a terminal state or with the parameters that are there. -/
theorem onlyConstructReplacesParameters : Obligations.OnlyConstructReplacesParameters := by
  intro s t h
  cases step_cases h with
  | quiet _ _ _ _ e => subst e; exact .inl rfl
  | cancelled _ _ e => subst e; exact .inl rfl
  | endOfProgram _ _ _ e => subst e; exact .inl rfl
  | badFetch _ _ _ e => subst e; exact .inl rfl
  | ran _ _ _ _ e =>
    have hexec : t.params = s.consume.start.params := exec_keeps_params e
    exact .inl hexec
  | rst _ e => subst e; exact .inl (construct_params _ _)
  | construct p hi hv hmay e =>
    subst e
    rw [construct_params]
    rcases hmay with hterm | heq
    · exact .inr ⟨hterm, hv, hi⟩
    · exact .inl heq

end Sys2Proof.Machine
end

section
/-! ### Decoding a word sequence (R71 to R77)

The opcode number of an instruction's mnemonic is read back because the numbering is injective, the
operands because the mnemonic tells how many there are. -/

namespace Sys2Proof

/-- The operands of every instruction are read back by its mnemonic (R71, R72). -/
theorem Instr.operandsReadBack : (i : Instr) → Laws.OperandsReadBack.Statement i
  | .const a1 => Laws.OperandsReadBack.const a1
  | .add => Laws.OperandsReadBack.add
  | .sub => Laws.OperandsReadBack.sub
  | .mul => Laws.OperandsReadBack.mul
  | .lt => Laws.OperandsReadBack.lt
  | .eq => Laws.OperandsReadBack.eq
  | .jmp a1 => Laws.OperandsReadBack.jmp a1
  | .jmpt a1 => Laws.OperandsReadBack.jmpt a1
  | .jmpf a1 => Laws.OperandsReadBack.jmpf a1
  | .load a1 => Laws.OperandsReadBack.load a1
  | .store a1 => Laws.OperandsReadBack.store a1
  | .gload => Laws.OperandsReadBack.gload
  | .gstore a1 => Laws.OperandsReadBack.gstore a1
  | .call a1 a2 => Laws.OperandsReadBack.call a1 a2
  | .ret => Laws.OperandsReadBack.ret
  | .pop => Laws.OperandsReadBack.pop
  | .print => Laws.OperandsReadBack.print
  | .halt => Laws.OperandsReadBack.halt

variable {o : OpcodeMap} {w : Int} {slots rest : List Int} {m : Mnemonic} {i : Instr}

theorem decodeWords_eq_ok (hm : decodeOpcode o w = some m)
    (hi : m.withOperands slots = some (i, rest)) : decodeWords o (w :: slots) = .ok i rest := by
  simp only [decodeWords, hm, hi]

/-- Only the opcode word decides whether the decoder rejects (R76, R77). -/
theorem decodeWords_eq_invalidOpcode_iff :
    decodeWords o (w :: slots) = .invalidOpcode ↔ w ∉ o.words := by
  rw [← decodeOpcode_none]
  cases hm : decodeOpcode o w with
  | none => simp only [decodeWords, hm]
  | some m => cases hi : m.withOperands slots <;> simp [decodeWords, hm, hi]

theorem decodeWords_encode (ho : o.words.Nodup) (i : Instr) (rest : List Int) :
    decodeWords o (encode o i ++ rest) = .ok i rest :=
  decodeWords_eq_ok (decodeOpcode_number ho i.mnemonic) (i.operandsReadBack rest)

theorem Config.defaultOpc_words_nodup : Config.defaultOpc.words.Nodup := by decide

/-- R74: the default numbering counts from 1 to 18. -/
theorem Config.mem_defaultOpc_words_iff : w ∈ Config.defaultOpc.words ↔ 1 ≤ w ∧ w ≤ 18 := by
  simp only [OpcodeMap.words, Config.defaultOpc, List.mem_cons, List.not_mem_nil, or_false]
  omega

/-- Settles O1, by the opcode word and then the operands. -/
theorem decodeReadsBackEncode : Obligations.DecodeReadsBackEncode :=
  fun _ i rest ho => decodeWords_encode ho i rest

/-- Settles O3, by the cases in which the decoder answers an instruction. -/
theorem decodedWordsAreTheEncoding : Obligations.DecodedWordsAreTheEncoding :=
  fun _ _ _ _ h => eq_encode_of_decodeWords h

/-- Settles O4: each of the six sequences is the encoding of its instruction and the words after it. -/
theorem writtenOutWordsDecode : Obligations.WrittenOutWordsDecode :=
  have readsBack := decodeWords_encode Config.defaultOpc_words_nodup
  ⟨readsBack (.const 42) [2], readsBack .add [], readsBack (.jmpf 35) [1],
    readsBack (.load (-3)) [2], readsBack (.call 5 2) [17], readsBack .halt []⟩

end Sys2Proof

namespace Sys2Proof.Machine

variable {s : State} {w : Int}

/-- The word that the program port shows at pc is the one a fetch reads first (R38, R95). -/
theorem drop_prog_of_progPort (h : s.progPort s.pc = some w) :
    ∃ slots, s.params.prog.drop s.pc.toNat = w :: slots := by
  unfold State.progPort at h
  split at h
  · obtain ⟨hlt, rfl⟩ := List.getElem?_eq_some_iff.mp h
    exact ⟨_, List.drop_eq_getElem_cons hlt⟩
  · cases h

theorem fetch_eq_invalidOpcode (h : s.progPort s.pc = some w) (hw : w ∉ s.params.opc.words) :
    fetch s = .invalidOpcode := by
  obtain ⟨slots, hdrop⟩ := drop_prog_of_progPort h
  unfold fetch
  rw [hdrop]
  exact decodeWords_eq_invalidOpcode_iff.mpr hw

/-- Settles O5: the decoder rejects on the opcode word alone, and the step then raises the fault in
the state at the start of the instruction. -/
theorem undefinedOpcodeFaults : Obligations.UndefinedOpcodeFaults := by
  refine ⟨fun _ _ _ => decodeWords_eq_invalidOpcode_iff, fun w => ?_, fun s w hf hport hw => ?_⟩
  · rw [Config.mem_defaultOpc_words_iff]
    omega
  · rw [step_fetches hf, fetch_eq_invalidOpcode hport hw]
    exact raise_eq s.consume.start .invalidOpcode

end Sys2Proof.Machine
end

section
/-! ### Words laid out as bits (R8, R71, R81)

A word is the `wrap` of its own bits, and bits above it, from bit `w` on, do not change its congruence
class modulo `2^w`; so a sequence of words is read back one word after another. -/

namespace Sys2Proof.Machine

variable {w : Nat}

theorem natCast_bitsOfWord (w : Nat) (z : Int) :
    (bitsOfWord w z : Int) = z % ((2 ^ w : Nat) : Int) :=
  Int.toNat_of_nonneg (Int.emod_nonneg z (two_pow_pos w).ne')

theorem bitsOfWord_lt (w : Nat) (z : Int) : bitsOfWord w z < 2 ^ w := by
  have hlt := Int.emod_lt_of_pos z (two_pow_pos w)
  rw [← natCast_bitsOfWord] at hlt
  exact_mod_cast hlt

/-- The lowest word of a bit string is read back, whatever bits `b` stand above it. -/
theorem wordOfBits_bitsOfWord_add (hw : 1 ≤ w) {z : Int} (hz : FitsWord w z) (b : Nat) :
    wordOfBits w (bitsOfWord w z + 2 ^ w * b) = z := by
  have hcong : ((2 ^ w : Nat) : Int) ∣ ((bitsOfWord w z + 2 ^ w * b : Nat) : Int) - z := by
    refine ⟨b - z / ((2 ^ w : Nat) : Int), ?_⟩
    rw [Nat.cast_add, Nat.cast_mul, natCast_bitsOfWord]
    linarith [Int.emod_add_mul_ediv z ((2 ^ w : Nat) : Int)]
  exact (wrap_congr hcong).trans (wrap_eq_self hw hz)

end Sys2Proof.Machine

namespace Sys2Proof

open Machine

variable {w : Nat}

theorem bitsOfWords_lt (w : Nat) (ws : List Int) : bitsOfWords w ws < 2 ^ (w * ws.length) := by
  induction ws with
  | nil => exact Nat.one_pos
  | cons z ws ih =>
    calc bitsOfWord w z + 2 ^ w * bitsOfWords w ws
        < 2 ^ w + 2 ^ w * bitsOfWords w ws := Nat.add_lt_add_right (bitsOfWord_lt w z) _
      _ = 2 ^ w * (bitsOfWords w ws + 1) := by ring
      _ ≤ 2 ^ w * 2 ^ (w * ws.length) := Nat.mul_le_mul_left _ ih
      _ = 2 ^ (w * (z :: ws).length) := by rw [← pow_add, List.length_cons]; ring

/-- Words laid out as bits are read back in order; the `extra` words read past them come from the
bits above, which are 0. -/
theorem wordsOfBits_bitsOfWords (hw : 1 ≤ w) (extra : Nat) {ws : List Int}
    (hws : ∀ z ∈ ws, FitsWord w z) :
    wordsOfBits w (ws.length + extra) (bitsOfWords w ws) = ws ++ wordsOfBits w extra 0 := by
  induction ws with
  | nil => rw [List.length_nil, Nat.zero_add]; rfl
  | cons z ws ih =>
    obtain ⟨hz, hws⟩ := List.forall_mem_cons.mp hws
    have habove : (bitsOfWord w z + 2 ^ w * bitsOfWords w ws) / 2 ^ w = bitsOfWords w ws := by
      rw [Nat.add_mul_div_left _ _ (Nat.two_pow_pos w), Nat.div_eq_of_lt (bitsOfWord_lt w z),
        Nat.zero_add]
    rw [List.length_cons, Nat.add_right_comm, bitsOfWords, wordsOfBits, habove, ih hws,
      wordOfBits_bitsOfWord_add hw hz, List.cons_append]

theorem Mnemonic.operandCount_le (m : Mnemonic) : m.operandCount ≤ 2 := by cases m <;> decide

/-- No instruction is longer than CALL (R70, R71). -/
theorem length_encode_le (o : OpcodeMap) (i : Instr) : (encode o i).length ≤ maxInstrWords := by
  have hcount := i.mnemonic.operandCount_le
  rw [i.mnemonic_operandCount] at hcount
  exact Nat.succ_le_succ hcount

theorem OpcodeMap.number_mem_words (o : OpcodeMap) (m : Mnemonic) : o.number m ∈ o.words := by
  rw [o.words_eq]
  exact List.mem_map_of_mem m.mem_all

/-- A well-formed instruction is encoded in words if the opcode numbers are words (R7, R73). -/
theorem fitsWord_of_mem_encode {o : OpcodeMap} {i : Instr} (ho : ∀ x ∈ o.words, FitsWord w x)
    (hi : i.wf w = true) : ∀ z ∈ encode o i, FitsWord w z := by
  refine List.forall_mem_cons.mpr ⟨ho _ (o.number_mem_words _), fun a ha => ?_⟩
  exact of_decide_eq_true (List.all_eq_true.mp hi a ha)

theorem Config.fitsWord_defaultOpc_words :
    ∀ x ∈ Config.defaultOpc.words, FitsWord Config.defaultW x := by decide

/-- The bits of an instruction do not reach past those of the longest one. -/
theorem encodeTableWord_lt (i : Instr) :
    encodeTableWord i < 2 ^ (Config.defaultW * maxInstrWords) :=
  (bitsOfWords_lt _ _).trans_le
    (Nat.pow_le_pow_right two_pos (Nat.mul_le_mul_left _ (length_encode_le _ i)))

/-- Settles O2: the bits are cut into the words they were made of, followed by zeros, and those words
decode to the instruction. -/
theorem tableWordReadsBackEncoding : Obligations.TableWordReadsBackEncoding := by
  intro i nbits hi hn
  have hbits : encodeTableWord i % 2 ^ nbits = encodeTableWord i :=
    Nat.mod_eq_of_lt ((encodeTableWord_lt i).trans_le (Nat.pow_le_pow_right two_pos hn))
  obtain ⟨extra, hextra⟩ := Nat.exists_eq_add_of_le (length_encode_le Config.defaultOpc i)
  have hwords : wordsOfBits Config.defaultW maxInstrWords (encodeTableWord i) =
      encode Config.defaultOpc i ++ wordsOfBits Config.defaultW extra 0 := by
    rw [hextra]
    exact wordsOfBits_bitsOfWords (by decide) extra
      (fitsWord_of_mem_encode Config.fitsWord_defaultOpc_words hi)
  refine decodeTableWord_of_ok (rest := wordsOfBits Config.defaultW extra 0) ?_
  rw [hbits, hwords]
  exact decodeWords_encode Config.defaultOpc_words_nodup i _

end Sys2Proof
end

section
/-! ### The engine's step by case (R93 to R95, R99, R101, R102)

One equation per branch of `engineStep`, and what a fetch finds at the end of the program. -/

namespace Sys2Proof.Machine

variable {s : State}

/-- R99: in a terminal state neither input matters. -/
theorem engineStep_of_terminal (hterm : s.terminal = true) (runEn cancel : Bool) :
    engineStep runEn cancel s = .next s :=
  if_pos hterm

/-- R101: a hold changes nothing, in a terminal state or not. -/
theorem engineStep_hold (cancel : Bool) (s : State) : engineStep false cancel s = .next s := by
  cases hterm : s.terminal with
  | true => exact engineStep_of_terminal hterm false cancel
  | false => rw [engineStep, hterm]; rfl

/-- R93. -/
theorem engineStep_cancel (hrun : s.terminal = false) :
    engineStep true true s = .next (s.start.stop .cancelled) := by
  rw [engineStep, hrun]; rfl

/-- R94, R95: between index 0 and the end of the program the engine fetches. -/
theorem engineStep_fetch (hrun : s.terminal = false) (hpc : s.legalReturn s.pc) :
    engineStep true false s = runFetched (fetch s) s.start := by
  obtain ⟨hlo, hhi⟩ := hpc
  have hinside : ¬ (s.pc < 0 ∨ s.progLen < s.pc) := by omega
  rw [engineStep, hrun]
  exact if_neg hinside

/-- R102: with `run_en = 1` the engine sets `fsm <- Running` before anything else, so setting it
beforehand makes no difference. -/
theorem engineStep_start (hrun : s.terminal = false) (cancel : Bool) :
    engineStep true cancel s.start = engineStep true cancel s := by
  unfold engineStep
  rw [hrun]
  rfl

theorem fetch_eq_endOfProgram (hpc : s.pc = s.progLen) : fetch s = .endOfProgram := by
  by_contra hword
  have h0 : 0 ≤ s.pc := hpc ▸ Int.natCast_nonneg _
  exact (pc_lt_of_fetch h0 hword).ne hpc

/-- Settles O7: the step runs what the fetch found, and the fetch decodes the words from pc on. -/
theorem stepRunsTheDecodedInstruction : Obligations.StepRunsTheDecodedInstruction := by
  intro s i rest hf _ hd
  have hfetch : fetch s = .ok i rest := hd
  rw [step_fetches hf, hfetch]
  rfl

/-- Settles O8. -/
theorem cancelHaltsBetweenInstructions : Obligations.CancelHaltsBetweenInstructions := by
  intro s hrun hi
  rw [step_clock hi, engineStep_cancel (s := s.consume) hrun]
  rfl

/-- Settles O9: at `pc = N` the engine still fetches, and the fetch finds the end of the program. -/
theorem endOfProgramHalts : Obligations.EndOfProgramHalts := by
  intro s hrun hi hpc
  have hlegal : s.legalReturn s.pc := by
    rw [hpc]
    exact ⟨Int.natCast_nonneg _, le_rfl⟩
  rw [step_clock hi, engineStep_fetch (s := s.consume) hrun hlegal, fetch_consume,
    fetch_eq_endOfProgram hpc]
  rfl

/-- Settles O10: both states take the same input, and `Ready` is not terminal. -/
theorem readyStepsAsRunning : Obligations.ReadyStepsAsRunning := by
  intro s cancel hready hi
  have hrun : s.terminal = false := terminal_eq_false_iff.mpr (by rw [hready]; decide)
  have hi' : s.start.nextInput = .clock true cancel := hi
  calc step s = engineStep true cancel s.consume := step_clock hi
    _ = engineStep true cancel s.consume.start := (engineStep_start (s := s.consume) hrun _).symm
    _ = step s.start := (step_clock hi').symm

end Sys2Proof.Machine
end

section
/-! ### A truncated instruction (R96, R164) -/

namespace Sys2Proof

theorem decodeWords_eq_truncated {o : OpcodeMap} {w : Int} {slots : List Int} {m : Mnemonic}
    (hm : decodeOpcode o w = some m) (hslots : slots.length < m.operandCount) :
    decodeWords o (w :: slots) = .truncated := by
  simp only [decodeWords, hm, Mnemonic.withOperands_none.mpr hslots]

end Sys2Proof

namespace Sys2Proof.Machine

/-- The slots after pc are too few for the operands when `P + n > N − 1`. -/
theorem fetch_eq_truncated {s : State} {m : Mnemonic} (hopc : s.params.opc.words.Nodup)
    (h0 : 0 ≤ s.pc) (hport : s.progPort s.pc = some (s.params.opc.number m))
    (hend : s.progLen - 1 < s.pc + m.operandCount) : fetch s = .truncated := by
  obtain ⟨slots, hdrop⟩ := drop_prog_of_progPort hport
  have hlen := congrArg List.length hdrop
  rw [List.length_drop, List.length_cons] at hlen
  unfold State.progLen at hend
  rw [fetch, hdrop]
  exact decodeWords_eq_truncated (decodeOpcode_number hopc m) (by omega)

/-- Settles O6: the decoder knows the mnemonic from the opcode word and misses an operand, and the
step then raises the fault in the state at the start of the instruction. -/
theorem truncatedInstructionFaults : Obligations.TruncatedInstructionFaults := by
  intro m _ s hv hf hport hend
  obtain ⟨-, -, -, -, -, -, hopc, -⟩ := hv
  have ⟨_, _, h0, _⟩ := hf
  rw [step_fetches hf, fetch_eq_truncated hopc h0 hport hend]
  exact raise_eq s.consume.start .outOfBoundsJump

end Sys2Proof.Machine
end

section
/-! ### Step is total, and how a step that fetches ends (R95, R98) -/

namespace Sys2Proof.Machine

variable {s t : State}

theorem runFetched_total (d : Decoded) (s : State) : ∃ t, runFetched d s = .next t := by
  cases d with
  | ok i rest => exact exec_total i s
  | invalidOpcode | truncated | endOfProgram => exact ⟨_, rfl⟩

/-- Settles O16, by the five ways an engine step ends: the one that stops the model needs a pc
outside the program. -/
theorem stepIsTotal : Obligations.StepIsTotal := by
  intro s hpc hclock
  cases hi : s.nextInput with
  | rst | construct => rw [hi] at hclock; cases hclock
  | clock runEn cancel =>
    rw [step_clock hi]
    rcases engineStep_cases runEn cancel s.consume with ⟨-, e⟩ | ⟨-, -, e⟩ | ⟨-, -, -, e⟩ |
      ⟨hrun, -, -, hout, -⟩ | ⟨-, -, -, -, -, e⟩
    · exact ⟨_, e⟩
    · exact ⟨_, e⟩
    · exact ⟨_, e⟩
    · obtain ⟨hlo, hhi⟩ := hpc.legalReturn hrun
      rw [State.consume_pc, State.consume_progLen] at hout
      omega
    · rw [e]; exact runFetched_total _ _

/-- An instruction that takes its effect leaves fsm and cause, or it is HALT. -/
theorem Effect.engine_eq_or_halt {i : Instr} (h : Effect i s t) :
    (t.fsm = s.fsm ∧ t.cause = s.cause) ∨
      i = .halt ∧ t.fsm = .halted ∧ t.cause = .haltInstruction := by
  cases i with
  | halt => obtain rfl := h; exact .inr ⟨rfl, rfl, rfl⟩
  | const | add | sub | mul | lt | eq | jmp | pop | print =>
    obtain ⟨-, rfl⟩ := h; exact .inl ⟨rfl, rfl⟩
  | load | store | gload | gstore | call => obtain ⟨-, -, rfl⟩ := h; exact .inl ⟨rfl, rfl⟩
  | jmpt | jmpf => obtain ⟨-, ⟨-, -, rfl⟩ | ⟨-, rfl⟩⟩ := h <;> exact .inl ⟨rfl, rfl⟩
  | ret => obtain ⟨-, -, -, -, -, -, rfl⟩ := h; exact .inl ⟨rfl, rfl⟩

theorem faultedWith_runTimeFault (s : State) (c : Cause)
    (hc : c ∈ [Cause.invalidOpcode, .stackOverflow, .stackUnderflow, .outOfBoundsJump]) :
    (s.faultedWith c).fsm = .faulted ∧ (s.faultedWith c).cause ∈
      [Cause.invalidOpcode, .stackOverflow, .stackUnderflow, .outOfBoundsJump] :=
  ⟨rfl, hc⟩

/-- The checks of an instruction raise run-time faults only (R160). -/
theorem CheckFailed.faulted (h : CheckFailed s t) : t.fsm = .faulted ∧
    t.cause ∈ [Cause.invalidOpcode, .stackOverflow, .stackUnderflow, .outOfBoundsJump] := by
  obtain ⟨c, rfl | rfl | rfl, rfl⟩ := h <;> exact faultedWith_runTimeFault s _ (by decide)

/-- Settles O13, by what the fetch found and, for an instruction, by its checks and its effect. -/
theorem fetchingStepEndsRunningHaltedOrFaulted :
    Obligations.FetchingStepEndsRunningHaltedOrFaulted := by
  intro s t hf h
  rw [step_fetches hf] at h
  cases hd : fetch s with
  | endOfProgram => obtain ⟨-, -, hpc⟩ := hf; exact absurd hd (fetch_ne_endOfProgram hpc)
  | invalidOpcode =>
    rw [hd] at h
    cases h
    exact .inr (.inl (faultedWith_runTimeFault s.consume.start .invalidOpcode (by decide)))
  | truncated =>
    rw [hd] at h
    cases h
    exact .inr (.inl (faultedWith_runTimeFault s.consume.start .outOfBoundsJump (by decide)))
  | ok i rest =>
    rw [hd] at h
    rcases exec_cases h with hfault | heffect
    · exact .inr (.inl hfault.faulted)
    · rcases heffect.engine_eq_or_halt with hrunning | ⟨rfl, hhalted⟩
      · exact .inr (.inr hrunning)
      · exact .inl ⟨⟨rest, rfl⟩, hhalted⟩

end Sys2Proof.Machine
end

section
/-! ### The inputs of the coming steps (R99, R101, R103)

A step acts on its own input and leaves those of the coming steps to them: putting others in their
place before the step or after it is the same. So a run is `stepWith` of its first input, then the
run under the others. -/

namespace Sys2Proof.Machine

/-- The state with other inputs for the coming steps. -/
def State.withInputs (xs : List HostInput) (s : State) : State := { s with inputs := xs }

/-- `f` of the next state, if there is one. -/
def mapNext (f : State → State) : Result → Result
  | .next s => .next (f s)
  | .fault r => .fault r
  | .refused r => .refused r

variable {s t : State} {x : HostInput} {xs ys : List HostInput}

section fields
/-! Everything but the inputs stays. -/

theorem State.withInputs_params : (s.withInputs xs).params = s.params := rfl
theorem State.withInputs_pc : (s.withInputs xs).pc = s.pc := rfl
theorem State.withInputs_progLen : (s.withInputs xs).progLen = s.progLen := rfl
theorem State.withInputs_top : (s.withInputs xs).top = s.top := rfl
theorem State.withInputs_terminal : (s.withInputs xs).terminal = s.terminal := rfl
theorem State.withInputs_start : (s.withInputs xs).start = s.start.withInputs xs := rfl
theorem fetch_withInputs : fetch (s.withInputs xs) = fetch s := rfl

end fields

section instructions
/-! No check and no effect of an instruction looks at the inputs. -/

theorem require_withInputs {c : Prop} [Decidable c] {f : Cause} {k k' : Result}
    (hk : k' = mapNext (State.withInputs xs) k) :
    require c f (s.withInputs xs) k' = mapNext (State.withInputs xs) (require c f s k) := by
  by_cases hc : c
  · rw [require_pos hc, require_pos hc, hk]
  · rw [require_neg hc, require_neg hc]; rfl

theorem branchIf_withInputs (test : Int → Bool) (a1 : Int) :
    branchIf test a1 (s.withInputs xs) = mapNext (State.withInputs xs) (branchIf test a1 s) := by
  refine require_withInputs ?_
  rw [State.withInputs_top]
  split
  · exact require_withInputs rfl
  · rfl

theorem exec_withInputs (i : Instr) :
    exec i (s.withInputs xs) = mapNext (State.withInputs xs) (exec i s) := by
  cases i with
  | halt => rfl
  | jmpt a1 | jmpf a1 => exact branchIf_withInputs _ a1
  | const | add | sub | mul | lt | eq | jmp | pop | print => exact require_withInputs rfl
  | load | store | gload | gstore | call => exact require_withInputs (require_withInputs rfl)
  | ret =>
    exact require_withInputs <| require_withInputs <| require_withInputs <| require_withInputs <|
      require_withInputs <| require_withInputs rfl

end instructions

section moves

theorem runFetched_withInputs (d : Decoded) :
    runFetched d (s.withInputs xs) = mapNext (State.withInputs xs) (runFetched d s) := by
  cases d with
  | ok i rest => exact exec_withInputs i
  | invalidOpcode | truncated | endOfProgram => rfl

theorem engineStep_withInputs (runEn cancel : Bool) :
    engineStep runEn cancel (s.withInputs xs) =
      mapNext (State.withInputs xs) (engineStep runEn cancel s) := by
  unfold engineStep
  rw [State.withInputs_terminal, State.withInputs_pc, State.withInputs_progLen, fetch_withInputs,
    State.withInputs_start]
  split_ifs
  · rfl
  · rfl
  · rfl
  · rfl
  · exact runFetched_withInputs _

theorem construct_withInputs (p : Params) (zs : List HostInput) :
    construct p xs = (construct p zs).withInputs xs := by
  unfold construct
  split <;> rfl

theorem hostConstruct_withInputs (p : Params) :
    hostConstruct p (s.withInputs xs) = mapNext (State.withInputs xs) (hostConstruct p s) := by
  unfold hostConstruct
  rw [State.withInputs_terminal, State.withInputs_params]
  split
  · rfl
  · split
    · rfl
    · exact congrArg Host.Outcome.next (construct_withInputs p s.inputs)

theorem stepWith_withInputs (x : HostInput) :
    stepWith x (s.withInputs xs) = mapNext (State.withInputs xs) (stepWith x s) := by
  cases x with
  | clock runEn cancel => exact engineStep_withInputs runEn cancel
  | rst => exact congrArg Host.Outcome.next (construct_withInputs s.params s.inputs)
  | construct p => exact hostConstruct_withInputs p

end moves

section runs

theorem step_withInputs_cons (s : State) (x : HostInput) (xs : List HostInput) :
    step (s.withInputs (x :: xs)) = mapNext (State.withInputs xs) (stepWith x s) :=
  stepWith_withInputs (s := s) x

/-- A run takes its inputs from its list alone. -/
theorem runInputs_withInputs (s : State) (xs ys : List HostInput) :
    runInputs (s.withInputs ys) xs = runInputs s xs := rfl

theorem runInputs_cons_of_next (h : stepWith x s = .next t) :
    runInputs s (x :: xs) = runInputs t xs := by
  have hstep := step_withInputs_cons s x xs
  rw [h] at hstep
  rw [runInputs_cons hstep rfl]
  exact runInputs_withInputs t xs xs

/-- Runs that agree from every state agree after one more step. -/
theorem runInputs_cons_congr (h : ∀ t, runInputs t xs = runInputs t ys) :
    runInputs s (x :: xs) = runInputs s (x :: ys) := by
  have hxs := step_withInputs_cons s x xs
  have hys := step_withInputs_cons s x ys
  cases hx : stepWith x s with
  | next t => rw [runInputs_cons_of_next hx, runInputs_cons_of_next hx, h t]
  | fault r =>
    rw [hx] at hxs hys
    rw [runInputs_cons_fault hxs, runInputs_cons_fault hys]
  | refused r =>
    rw [hx] at hxs hys
    rw [runInputs_cons_refused hxs, runInputs_cons_refused hys]

theorem stepWith_of_holds (hx : x.holds = true) (s : State) : stepWith x s = .next s := by
  cases x with
  | clock runEn cancel =>
    cases runEn with
    | false => exact engineStep_hold cancel s
    | true => cases hx
  | rst | construct => cases hx

theorem stepWith_of_terminal (hx : x.isClock = true) (hterm : s.terminal = true) :
    stepWith x s = .next s := by
  cases x with
  | clock runEn cancel => exact engineStep_of_terminal hterm runEn cancel
  | rst | construct => cases hx

theorem runInputs_of_terminal (hterm : s.terminal = true)
    (hxs : ∀ x ∈ xs, x.isClock = true) : runInputs s xs = .next (s.withInputs []) := by
  induction xs with
  | nil => rfl
  | cons x xs ih =>
    obtain ⟨hx, hxs⟩ := List.forall_mem_cons.mp hxs
    rw [runInputs_cons_of_next (stepWith_of_terminal hx hterm), ih hxs]

/-- Settles O11: each `Step` input is taken without effect, and reset does not look at the old
engine state. -/
theorem terminalStatesAbsorb : Obligations.TerminalStatesAbsorb := by
  refine ⟨fun _ _ hterm hxs => runInputs_of_terminal hterm hxs, fun s _ hi hstart => ?_⟩
  refine ⟨_, step_rst hi, ?_⟩
  obtain ⟨-, -, -, -, -, -, -, -, ⟨-, -, hready, -⟩ | ⟨hbad, -⟩⟩ :=
    construct_fields s.params s.inputs.tail
  · exact hready
  · exact absurd hstart hbad

theorem runInputs_filter_holds (s : State) (xs : List HostInput) :
    runInputs s xs = runInputs s (xs.filter fun x => !x.holds) := by
  induction xs generalizing s with
  | nil => rfl
  | cons x xs ih =>
    cases hx : x.holds with
    | true =>
      rw [List.filter_cons_of_neg (by rw [hx]; decide),
        runInputs_cons_of_next (stepWith_of_holds hx s)]
      exact ih s
    | false =>
      rw [List.filter_cons_of_pos (by rw [hx]; decide)]
      exact runInputs_cons_congr ih

/-- Settles O12: a hold is taken without effect, and every other step ignores the inputs that come
after its own. -/
theorem holdsDoNotChangeTheRun : Obligations.HoldsDoNotChangeTheRun := by
  refine ⟨fun s cancel _ hi => ?_, runInputs_filter_holds⟩
  rw [step_clock hi]
  exact engineStep_hold cancel s.consume

end runs

end Sys2Proof.Machine
end

section
/-! ### CONST, the arithmetic and the comparisons (R111 to R116)

All six leave a word in the slot that is the top of the stack afterwards (`LeavesOnTop`): CONST one
slot up, the other five, all of the shape `binaryOp`, one slot down. -/

namespace Sys2Proof.Machine

variable {s : State} {r : Result} {pc sp v : Int}

/-- `r` is `s` with `pc` and `sp` set and the word `v` in the slot `sp`; every other slot and field
is unchanged. -/
def LeavesOnTop (s : State) (r : Result) (pc sp v : Int) : Prop :=
  ∃ t, r = .next t ∧ t = { s with pc := pc, sp := sp, stack := t.stack } ∧
    t.stack.read sp.toNat = v ∧ ∀ k, k ≠ sp.toNat → t.stack.read k = s.stack.read k

/-- A single write to the new top is enough. -/
theorem leavesOnTop_of_write
    (h : r = .next { s with pc := pc, sp := sp, stack := s.stack.write sp.toNat v }) :
    LeavesOnTop s r pc sp v :=
  ⟨_, h, rfl, Memory.read_write_same .., fun _ hk => Memory.read_write_other _ _ hk⟩

/-- The push of an instruction of `n` words (R91). -/
theorem requireRoom_push (n : Nat) (s : State) (v : Int) :
    (s.sp < (s.params.stackCap : Int) - 1 →
      LeavesOnTop s (requireRoom 1 s (.next ((s.push v).advance n))) (s.pc + n) (s.sp + 1) v) ∧
    (¬ s.sp < (s.params.stackCap : Int) - 1 →
      requireRoom 1 s (.next ((s.push v).advance n)) = .next (s.faultedWith .stackOverflow)) := by
  refine ⟨fun hroom => leavesOnTop_of_write ?_, fun hfull => ?_⟩
  · exact requireRoom_eq_next.mpr (.inl ⟨by omega, rfl⟩)
  · exact requireRoom_eq_next.mpr (.inr ⟨by omega, rfl⟩)

/-- The lower word is the first argument of `f`, and its slot takes the result
(R112 to R116). -/
theorem binaryOp_replaces {f : Int → Int → Int}
    (hf : f (s.stackAt (s.sp - 1)) (s.stackAt s.sp) = v) :
    (1 ≤ s.sp → LeavesOnTop s (binaryOp f s) (s.pc + 1) (s.sp - 1) v) ∧
    (¬ 1 ≤ s.sp → binaryOp f s = .next (s.faultedWith .stackUnderflow)) := by
  subst hf
  refine ⟨fun htwo => leavesOnTop_of_write ?_, fun hfew => ?_⟩
  · exact binaryOp_eq_next.mpr (.inl ⟨htwo, rfl⟩)
  · exact binaryOp_eq_next.mpr (.inr ⟨hfew, rfl⟩)

theorem exec_const (a1 : Int) (s : State) :
    exec (.const a1) s = requireRoom 1 s (.next ((s.push a1).advance 2)) := rfl
theorem exec_add (s : State) : exec .add s = binaryOp (addWord s.params.w) s := rfl
theorem exec_sub (s : State) : exec .sub s = binaryOp (subWord s.params.w) s := rfl
theorem exec_mul (s : State) : exec .mul s = binaryOp (mulWord s.params.w) s := rfl
theorem exec_lt (s : State) : exec .lt s = binaryOp ltWord s := rfl
theorem exec_eq (s : State) : exec .eq s = binaryOp (fun b a => eqWord a b) s := rfl

/-- Settles O22: the truncated case is that of every mnemonic with an operand, and the rest is a
push. -/
theorem constPushesItsOperand : Obligations.ConstPushesItsOperand := by
  refine ⟨fun _ => rfl, truncatedInstructionFaults .const (by decide), fun a1 s => ?_⟩
  rw [exec_const]
  exact requireRoom_push 2 s a1

/-- Settles O23. -/
theorem addReplacesTwoWordsByTheirWrappedSum :
    Obligations.AddReplacesTwoWordsByTheirWrappedSum := by
  refine ⟨rfl, fun s => ?_⟩
  rw [exec_add]
  exact binaryOp_replaces rfl

/-- Settles O24. -/
theorem subReplacesTwoWordsByTheirWrappedDifference :
    Obligations.SubReplacesTwoWordsByTheirWrappedDifference := by
  refine ⟨rfl, fun s => ?_⟩
  rw [exec_sub]
  exact binaryOp_replaces rfl

/-- Settles O25. -/
theorem mulReplacesTwoWordsByTheirWrappedProduct :
    Obligations.MulReplacesTwoWordsByTheirWrappedProduct := by
  refine ⟨rfl, fun s => ?_⟩
  rw [exec_mul]
  exact binaryOp_replaces rfl

/-- Settles O26. -/
theorem ltLeavesOneWhenTheLowerWordIsLess : Obligations.LtLeavesOneWhenTheLowerWordIsLess := by
  refine ⟨rfl, fun s => ?_⟩
  rw [exec_lt]
  exact binaryOp_replaces (ltWord_eq _ _)

/-- Settles O27: the model compares the top word with the one below it, in that order. -/
theorem eqLeavesOneWhenTheWordsAreEqual : Obligations.EqLeavesOneWhenTheWordsAreEqual := by
  refine ⟨rfl, fun s => ?_⟩
  rw [exec_eq]
  exact binaryOp_replaces (eqWord_eq _ _)

end Sys2Proof.Machine
end

section
/-! ### JMP, JMPT and JMPF (R120 to R123)

JMPT and JMPF are one shape, `branchIf`, with two tests, and each test is equality with one word. -/

namespace Sys2Proof.Machine

theorem exec_jmp (a1 : Int) (s : State) :
    exec (.jmp a1) s =
      require (s.legalTarget a1) .outOfBoundsJump s (.next (s.setPc a1)) := rfl
theorem exec_jmpt (a1 : Int) (s : State) : exec (.jmpt a1) s = branchIf testsTrue a1 s := rfl
theorem exec_jmpf (a1 : Int) (s : State) : exec (.jmpf a1) s = branchIf testsFalse a1 s := rfl

/-- A branch whose test is equality with the word `v` ends in one of four ways: an empty stack, a
jump to a legal target, a jump past the program, and a fall-through that asks nothing of `a1`
(R122, R123). -/
theorem branchIf_of_test_eq {test : Int → Bool} {v : Int} (htest : ∀ x, test x = true ↔ x = v)
    (a1 : Int) (s : State) :
    (¬ 0 ≤ s.sp → branchIf test a1 s = .next (s.faultedWith .stackUnderflow)) ∧
    (0 ≤ s.sp → s.stackAt s.sp = v → s.legalTarget a1 →
      branchIf test a1 s = .next { s with pc := a1, sp := s.sp - 1 }) ∧
    (0 ≤ s.sp → s.stackAt s.sp = v → ¬ s.legalTarget a1 →
      branchIf test a1 s = .next (s.faultedWith .outOfBoundsJump)) ∧
    (0 ≤ s.sp → s.stackAt s.sp ≠ v →
      branchIf test a1 s = .next { s with pc := s.pc + 2, sp := s.sp - 1 }) := by
  refine ⟨fun hempty => ?_, fun hword htop hlegal => ?_, fun hword htop hillegal => ?_,
    fun hword htop => ?_⟩ <;> rw [branchIf_eq_next]
  · exact .inr (.inr (.inr ⟨hempty, rfl⟩))
  · exact .inl ⟨hword, (htest _).mpr htop, hlegal, rfl⟩
  · exact .inr (.inl ⟨hword, (htest _).mpr htop, hillegal, rfl⟩)
  · have hfalls : test (s.stackAt s.sp) = false := Bool.eq_false_iff.mpr (mt (htest _).mp htop)
    exact .inr (.inr (.inl ⟨hword, hfalls, rfl⟩))

/-- Settles O28: the target check is the only one JMP makes. -/
theorem jmpLoadsTheTarget : Obligations.JmpLoadsTheTarget := by
  refine ⟨fun _ => rfl, truncatedInstructionFaults .jmp (by decide), fun a1 s => ?_⟩
  rw [exec_jmp]
  exact ⟨fun hlegal => require_pos hlegal _ s _, fun hillegal => require_neg hillegal _ s _⟩

/-- Settles O29: the test is equality with 1. -/
theorem jmptJumpsOnOne : Obligations.JmptJumpsOnOne := by
  refine ⟨fun _ => rfl, truncatedInstructionFaults .jmpt (by decide), fun a1 s => ?_⟩
  rw [exec_jmpt]
  exact branchIf_of_test_eq testsTrue_iff a1 s

/-- Settles O30: the test is equality with 0. -/
theorem jmpfJumpsOnZero : Obligations.JmpfJumpsOnZero := by
  refine ⟨fun _ => rfl, truncatedInstructionFaults .jmpf (by decide), fun a1 s => ?_⟩
  rw [exec_jmpf]
  exact branchIf_of_test_eq testsFalse_iff a1 s

end Sys2Proof.Machine
end

section
/-! ### LOAD, STORE, GLOAD and GSTORE (R130 to R134)

LOAD and GLOAD leave a word on top of the stack (`LeavesOnTop`). STORE and GSTORE are one shape,
`storeLocals`, at two indices. -/

namespace Sys2Proof.Machine

theorem exec_load (a1 : Int) (s : State) :
    exec (.load a1) s =
      require (s.liveSlot (s.fp + a1)) .outOfBoundsJump s
        (requireRoom 1 s (.next ((s.push (s.stackAt (s.fp + a1))).advance 2))) := rfl
theorem exec_store (a1 : Int) (s : State) : exec (.store a1) s = storeLocals (s.fp + a1) s := rfl
theorem exec_gload (s : State) :
    exec .gload s =
      requireDepth 1 s
        (require (s.localsSlot s.top) .outOfBoundsJump s
          (.next ((s.setStack s.sp (s.localsAt s.top)).advance 1))) := rfl
theorem exec_gstore (a1 : Int) (s : State) : exec (.gstore a1) s = storeLocals a1 s := rfl

/-- A store to the locals slot `i` ends in one of three ways, and the pop is checked before the
index (R132, R134). -/
theorem storeLocals_pops (i : Int) (s : State) :
    (¬ 0 ≤ s.sp → storeLocals i s = .next (s.faultedWith .stackUnderflow)) ∧
    (0 ≤ s.sp → ¬ s.localsSlot i →
      storeLocals i s = .next (s.faultedWith .outOfBoundsJump)) ∧
    (0 ≤ s.sp → s.localsSlot i →
      ∃ t, storeLocals i s = .next t ∧
        t = { s with pc := s.pc + 2, sp := s.sp - 1, locals := t.locals } ∧
        t.locals.read i.toNat = s.stackAt s.sp ∧
        ∀ k, k ≠ i.toNat → t.locals.read k = s.locals.read k) := by
  refine ⟨fun hempty => ?_, fun hword houtside => ?_, fun hword hslot => ?_⟩
  · exact storeLocals_eq_next.mpr (.inr (.inr ⟨hempty, rfl⟩))
  · exact storeLocals_eq_next.mpr (.inr (.inl ⟨hword, houtside, rfl⟩))
  · exact ⟨_, storeLocals_eq_next.mpr (.inl ⟨hword, hslot, rfl⟩), rfl,
      Memory.read_write_same .., fun _ hk => Memory.read_write_other _ _ hk⟩

/-- Settles O31: past the index check, LOAD is the push of CONST. -/
theorem loadPushesALiveSlot : Obligations.LoadPushesALiveSlot := by
  refine ⟨fun _ => rfl, truncatedInstructionFaults .load (by decide), fun a1 s => ?_⟩
  rw [exec_load]
  obtain ⟨hpush, hfull⟩ := requireRoom_push 2 s (s.stackAt (s.fp + a1))
  refine ⟨fun hdead => require_neg hdead _ s _, fun hlive => ?_, fun hlive => ?_⟩ <;>
    rw [require_pos hlive]
  · exact hfull
  · exact hpush

/-- Settles O32. -/
theorem storeWritesAFrameRelativeLocal : Obligations.StoreWritesAFrameRelativeLocal := by
  refine ⟨fun _ => rfl, truncatedInstructionFaults .store (by decide), fun a1 s => ?_⟩
  rw [exec_store]
  exact storeLocals_pops (s.fp + a1) s

/-- Settles O33: the word goes to the slot of the address, so GLOAD asks for no room. -/
theorem gloadReplacesTheAddressByTheLocal : Obligations.GloadReplacesTheAddressByTheLocal := by
  refine ⟨rfl, fun s => ?_⟩
  rw [exec_gload]
  refine ⟨fun hempty => ?_, fun hword houtside => ?_,
    fun hword hslot => leavesOnTop_of_write ?_⟩ <;>
    rw [requireDepth_eq_next]
  · exact .inr ⟨by omega, rfl⟩
  · exact .inl ⟨by omega, require_neg houtside _ s _⟩
  · exact .inl ⟨by omega, require_pos hslot _ s _⟩

/-- Settles O34. -/
theorem gstoreWritesAnAbsoluteLocal : Obligations.GstoreWritesAnAbsoluteLocal := by
  refine ⟨fun _ => rfl, truncatedInstructionFaults .gstore (by decide), fun a1 s => ?_⟩
  rw [exec_gstore]
  exact storeLocals_pops a1 s

end Sys2Proof.Machine
end

section
/-! ### CALL and RET (R141 to R144)

CALL writes the three words of a frame (`Memory.writeFrame`) and RET reads them back. What RET needs
to know of the CALL is which word it left in which slot (`frame_of_call`). -/

namespace Sys2Proof.Machine

/-- The stack memory with a frame on top of the slot `sp`: the argument count, the caller's fp and
the return pc, from the bottom up (R141, R142). -/
def Memory.writeFrame (m : Memory) (sp argc savedFp returnPc : Int) : Memory :=
  ((m.write (sp + 1).toNat argc).write (sp + 2).toNat savedFp).write (sp + 3).toNat returnPc

/-- Above a stack pointer that is at least −1 the three slots are three, so no word of the frame
overwrites another. -/
theorem Memory.read_writeFrame (m : Memory) {sp : Int} (hsp : -1 ≤ sp)
    (argc savedFp returnPc : Int) :
    (m.writeFrame sp argc savedFp returnPc).read (sp + 1).toNat = argc ∧
    (m.writeFrame sp argc savedFp returnPc).read (sp + 2).toNat = savedFp ∧
    (m.writeFrame sp argc savedFp returnPc).read (sp + 3).toNat = returnPc ∧
    ∀ k, k ≠ (sp + 1).toNat → k ≠ (sp + 2).toNat → k ≠ (sp + 3).toNat →
      (m.writeFrame sp argc savedFp returnPc).read k = m.read k := by
  have h12 : (sp + 1).toNat ≠ (sp + 2).toNat := by omega
  have h13 : (sp + 1).toNat ≠ (sp + 3).toNat := by omega
  have h23 : (sp + 2).toNat ≠ (sp + 3).toNat := by omega
  unfold Memory.writeFrame
  refine ⟨?_, ?_, Memory.read_write_same .., fun k h1 h2 h3 => ?_⟩
  · rw [Memory.read_write_other _ _ h13, Memory.read_write_other _ _ h12, Memory.read_write_same]
  · rw [Memory.read_write_other _ _ h23, Memory.read_write_same]
  · rw [Memory.read_write_other _ _ h3, Memory.read_write_other _ _ h2,
      Memory.read_write_other _ _ h1]

theorem push_push_push (s : State) (argc savedFp returnPc : Int) :
    ((s.push argc).push savedFp).push returnPc =
      { s with sp := s.sp + 3, stack := s.stack.writeFrame s.sp argc savedFp returnPc } := by
  simp [State.push, State.setSp, State.setStack, Memory.writeFrame, add_assoc]

theorem exec_call (a1 a2 : Int) (s : State) :
    exec (.call a1 a2) s =
      require (s.legalTarget a1) .outOfBoundsJump s
        (requireRoom 3 s
          (.next { s with
            pc := a1, sp := s.sp + 3, fp := s.sp + 3
            stack := s.stack.writeFrame s.sp a2 s.fp (s.pc + 3) })) := by
  rw [exec, execCall, push_push_push]
  rfl

theorem exec_ret (s : State) :
    exec .ret s =
      require (0 ≤ s.sp) .stackUnderflow s
        (require (2 ≤ s.fp) .stackUnderflow s
          (require (s.fp ≤ s.sp - 1) .outOfBoundsJump s
            (require (0 ≤ s.stackAt (s.fp - 2)) .outOfBoundsJump s
              (require (-1 ≤ s.fp - 3 - s.stackAt (s.fp - 2)) .stackUnderflow s
                (require (s.legalReturn (s.stackAt s.fp)) .outOfBoundsJump s
                  (.next { s with
                    pc := s.stackAt s.fp, sp := s.fp - 2 - s.stackAt (s.fp - 2)
                    fp := s.stackAt (s.fp - 1)
                    stack := s.stack.write (s.fp - 2 - s.stackAt (s.fp - 2)).toNat
                      (s.stackAt s.sp) })))))) := rfl

/-- Settles O35: the target is checked before the room, and the words written are a frame. -/
theorem callPushesTheFrameAndJumps : Obligations.CallPushesTheFrameAndJumps := by
  refine ⟨fun _ _ => rfl, truncatedInstructionFaults .call (by decide), fun a1 a2 s => ?_⟩
  rw [exec_call]
  refine ⟨fun hillegal => require_neg hillegal _ s _, fun hlegal hfull => ?_,
    fun hlegal hroom hsp => ?_⟩ <;> rw [require_pos hlegal]
  · exact require_neg hfull _ s _
  · exact ⟨_, require_pos hroom _ s _, rfl, s.stack.read_writeFrame hsp a2 s.fp (s.pc + 3)⟩

/-- Settles O36: in each clause the checks before it pass. When all do, the return value is left on
top of the caller's stack. -/
theorem retUnwindsTheFrame : Obligations.RetUnwindsTheFrame := by
  refine ⟨rfl, ?_⟩
  rintro s _ _ _ rfl rfl rfl
  rw [exec_ret]
  refine ⟨fun c1 => require_neg c1 _ s _, fun c1 c2 => ?_, fun c1 c2 c3 => ?_,
    fun c1 c2 c3 c4 => ?_, fun c1 c2 c3 c4 c5 => ?_, fun c1 c2 c3 c4 c5 c6 => ?_,
    fun c1 c2 c3 c4 c5 c6 =>
      leavesOnTop_of_write (s := { s with fp := s.stackAt (s.fp - 1) }) ?_⟩ <;>
    rw [require_pos c1]
  · exact require_neg c2 _ s _
  · rw [require_pos c2]; exact require_neg c3 _ s _
  · rw [require_pos c2, require_pos c3]; exact require_neg c4 _ s _
  · rw [require_pos c2, require_pos c3, require_pos c4]; exact require_neg c5 _ s _
  · rw [require_pos c2, require_pos c3, require_pos c4, require_pos c5]
    exact require_neg c6 _ s _
  · rw [require_pos c2, require_pos c3, require_pos c4, require_pos c5]
    exact require_pos c6 _ s _

/-- A CALL that passes its checks leaves a frame that RET can read: fp is the new top, and the three
words are the return pc, the caller's fp and the argument count (R141, R142). -/
theorem frame_of_call {s u : State} {a1 a2 : Int} (hcall : exec (.call a1 a2) s = .next u)
    (hran : u.fsm ≠ .faulted) (hsp : -1 ≤ s.sp) :
    u.sp = s.sp + 3 ∧ u.fp = s.sp + 3 ∧
      u.frameReturnPc = s.pc + 3 ∧ u.frameSavedFp = s.fp ∧ u.frameArgc = a2 := by
  rcases exec_cases hcall with ⟨c, -, rfl⟩ | ⟨-, -, rfl⟩
  · exact absurd rfl hran
  · obtain ⟨hargc, hsaved, hreturn, -⟩ := s.stack.read_writeFrame hsp a2 s.fp (s.pc + 3)
    refine ⟨rfl, rfl, hreturn, ?_, ?_⟩
    · have hslot : s.sp + 3 - 1 = s.sp + 2 := by omega
      exact (congrArg (fun i : Int => Memory.read _ i.toNat) hslot).trans hsaved
    · have hslot : s.sp + 3 - 2 = s.sp + 1 := by omega
      exact (congrArg (fun i : Int => Memory.read _ i.toNat) hslot).trans hargc

/-- Settles O40: the callee's frame words are those CALL wrote, so with `fp = S + 3` every check of
RET passes and the slot it returns to is `S + 1 − k`. -/
theorem callThenRetRestoresTheCaller : Obligations.CallThenRetRestoresTheCaller := by
  intro s u v a1 k hcall hran hsp hk hargs hpc hend hparams hfp habove hreturn hsaved hargc
  obtain ⟨husp, hufp, hureturn, husaved, huargc⟩ := frame_of_call hcall hran hsp
  have hlen : v.progLen = s.progLen := by unfold State.progLen; rw [hparams]
  have hvfp : v.fp = s.sp + 3 := hfp.trans hufp
  obtain ⟨-, hret⟩ := retUnwindsTheFrame
  obtain ⟨-, -, -, -, -, -, hunwind⟩ := hret v (s.pc + 3) s.fp k
    (hreturn.trans hureturn) (hsaved.trans husaved) (hargc.trans huargc)
  have hslot : v.fp - 2 - k = s.sp + 1 - k := by omega
  rw [hslot] at hunwind
  obtain ⟨t, ht, e, htop, hbelow⟩ := hunwind (by omega) (by omega) (by omega) hk (by omega)
    ⟨by omega, by omega⟩
  have htsp : t.sp = s.sp + 1 - k := congrArg State.sp e
  refine ⟨t, ht, by rw [e], htsp, by rw [e], by rw [e], ?_, by rw [e],
    fun j hj => hbelow j (by omega)⟩
  rw [htsp]
  exact htop

end Sys2Proof.Machine
end

section
/-! ### POP, PRINT and HALT (R151 to R153)

POP and PRINT make one check, that the stack is not empty; HALT makes none and enters a terminal
state. -/

namespace Sys2Proof.Machine

theorem exec_pop (s : State) :
    exec .pop s =
      require (0 ≤ s.sp) .stackUnderflow s (.next { s with pc := s.pc + 1, sp := s.sp - 1 }) := rfl
theorem exec_print (s : State) :
    exec .print s =
      require (0 ≤ s.sp) .stackUnderflow s
        (.next { s with pc := s.pc + 1, sp := s.sp - 1, out := s.out ++ [s.stackAt s.sp] }) := rfl
theorem exec_halt (s : State) :
    exec .halt s =
      .next { s with pc := s.pc + 1, fsm := .halted, cause := .haltInstruction } := rfl

/-- A slot above the stack pointer is dead (R29). -/
theorem not_liveSlot_of_lt {s : State} {i : Int} (h : s.sp < i) : ¬ s.liveSlot i :=
  fun ⟨_, hle⟩ => absurd hle (Int.not_le.mpr h)

/-- A step that appends one word to the trace pulses that word (R38). -/
theorem outPulse_of_out_eq_append {s t : State} {v : Int} (h : t.out = s.out ++ [v]) :
    outPulse s t = some v := by
  rw [outPulse, h, List.getElem?_concat_length]

/-- Settles O37: the popped slot is one above the new stack pointer. -/
theorem popDropsTheTop : Obligations.PopDropsTheTop := by
  refine ⟨rfl, fun s => ?_⟩
  rw [exec_pop]
  refine ⟨fun hword => ⟨require_pos hword _ s _, not_liveSlot_of_lt ?_⟩,
    fun hempty => require_neg hempty _ s _⟩
  exact Int.sub_one_lt_of_le le_rfl

/-- Settles O38: the trace grows by the top word, which is therefore the pulse. -/
theorem printEmitsTheTopOnce : Obligations.PrintEmitsTheTopOnce := by
  refine ⟨rfl, fun s => ?_⟩
  rw [exec_print]
  exact ⟨fun hword => ⟨_, require_pos hword _ s _, rfl, outPulse_of_out_eq_append rfl⟩,
    fun hempty => require_neg hempty _ s _⟩

/-- Settles O39: the state HALT leaves is terminal, and a terminal state absorbs every `Step`
input (R99). -/
theorem haltStopsTheEngine : Obligations.HaltStopsTheEngine := by
  refine ⟨rfl, fun s => ⟨exec_halt s, fun t inputs hhalt hinputs => ?_⟩⟩
  have hterm : t.terminal = true := by
    rw [exec_halt] at hhalt
    cases hhalt
    rfl
  exact runInputs_of_terminal hterm hinputs

end Sys2Proof.Machine
end

section
/-! ### The fault of a step is the first failing check (R166, R174)

An instruction's rule is a nest of `require`s and its row of the matrix is a list: each `require`
adds its own check to the front of the list, and a rule without a check adds none. -/

namespace Sys2Proof.Machine

variable {s t : State}

/-- The outcome `r` of an instruction that starts in `s`, when `fault` is the fault it must raise:
that fault and nothing else (R165), or a state that is not `Faulted` if there is none. -/
def EndsWithFault (fault : Option Cause) (s : State) (r : Result) : Prop :=
  (∀ c, fault = some c → r = .next (s.faultedWith c)) ∧
    (fault = none → ∃ t, r = .next t ∧ t.fsm ≠ .faulted)

theorem EndsWithFault.raise (s : State) (c : Cause) : EndsWithFault (some c) s (raise s c) := by
  refine ⟨fun c' hc => ?_, nofun⟩
  cases hc
  exact raise_eq s c

theorem EndsWithFault.next (ht : t.fsm ≠ .faulted) : EndsWithFault none s (.next t) :=
  ⟨nofun, fun _ => ⟨t, rfl, ht⟩⟩

/-- A `require` is the first of the checks. -/
theorem EndsWithFault.require {c : Prop} [Decidable c] {failed : Bool} {x : Cause}
    {rest : List (Bool × Cause)} {k : Result} (hfailed : failed = true ↔ ¬ c)
    (hk : EndsWithFault (firstFault rest) s k) :
    EndsWithFault (firstFault ((failed, x) :: rest)) s (require c x s k) := by
  by_cases hc : c
  · have hpassed : failed = false := Bool.eq_false_iff.mpr fun h => hfailed.mp h hc
    subst hpassed
    rw [require_pos hc]
    exact hk
  · have hfails : failed = true := hfailed.mpr hc
    subst hfails
    rw [require_neg hc]
    exact .raise s x

/-- The matrix's test of an index against a range of `size` slots. -/
def outsideRange (x size : Int) : Bool := decide (x < 0) || decide (size ≤ x)

theorem outsideRange_iff (x size : Int) :
    outsideRange x size = true ↔ ¬ (0 ≤ x ∧ x < size) := by
  rw [outsideRange, Bool.or_eq_true, decide_eq_true_eq, decide_eq_true_eq]
  omega

/-- A range that names its last slot has one slot more. -/
theorem outsideRange_add_one_iff (x last : Int) :
    outsideRange x (last + 1) = true ↔ ¬ (0 ≤ x ∧ x ≤ last) := by
  rw [outsideRange_iff, Int.lt_add_one_iff]

/-- A stack that has no word for a pop is empty, by R25. -/
theorem EndsWithFault.requireDepth_one {rest : List (Bool × Cause)} {k : Result}
    (hsp : SpInStack s) (hk : EndsWithFault (firstFault rest) s k) :
    EndsWithFault (firstFault ((decide (s.sp = -1), .stackUnderflow) :: rest)) s
      (requireDepth 1 s k) := by
  obtain ⟨hlo, -⟩ := hsp
  refine .require ?_ hk
  rw [decide_eq_true_eq]
  omega

/-- A stack that has no room for a push is full, by R25. -/
theorem EndsWithFault.requireRoom_one {rest : List (Bool × Cause)} {k : Result}
    (hsp : SpInStack s) (hk : EndsWithFault (firstFault rest) s k) :
    EndsWithFault
      (firstFault ((decide (s.sp = (s.params.stackCap : Int) - 1), .stackOverflow) :: rest)) s
      (requireRoom 1 s k) := by
  obtain ⟨-, hhi⟩ := hsp
  refine .require ?_ hk
  rw [decide_eq_true_eq]
  omega

/-- ADD, SUB, MUL, LT and EQ need two words (R112 to R116). -/
theorem EndsWithFault.binaryOp (hrun : s.fsm ≠ .faulted) (f : Int → Int → Int) :
    EndsWithFault (firstFault [(decide (s.sp ≤ 0), .stackUnderflow)]) s (binaryOp f s) := by
  refine .require ?_ (.next hrun)
  rw [decide_eq_true_eq]
  omega

/-- JMPT and JMPF pop, and check the target only if the tested word is the one they jump on
(R122, R123). -/
theorem EndsWithFault.branchIf (hsp : SpInStack s) (hrun : s.fsm ≠ .faulted) {test : Int → Bool}
    {v : Int} (htest : ∀ x, test x = true ↔ x = v) (a1 : Int) :
    EndsWithFault (firstFault [(decide (s.sp = -1), .stackUnderflow),
      (decide (s.top = v) && outsideRange a1 s.progLen, .outOfBoundsJump)]) s
      (branchIf test a1 s) := by
  refine .requireDepth_one hsp ?_
  by_cases htop : s.top = v
  · rw [if_pos ((htest _).mpr htop), decide_eq_true htop, Bool.true_and]
    exact .require (outsideRange_iff ..) (.next hrun)
  · rw [if_neg (mt (htest _).mp htop), decide_eq_false htop, Bool.false_and]
    exact .next hrun

/-- STORE and GSTORE pop, and then check the index (R132, R134). -/
theorem EndsWithFault.storeLocals (hsp : SpInStack s) (hrun : s.fsm ≠ .faulted) (i : Int) :
    EndsWithFault (firstFault [(decide (s.sp = -1), .stackUnderflow),
      (outsideRange i s.params.localsSize, .outOfBoundsJump)]) s (storeLocals i s) :=
  .requireDepth_one hsp (.require (outsideRange_iff ..) (.next hrun))

/-- The frame is checked in the order c1 to c6 (R143). -/
theorem EndsWithFault.execRet (hsp : SpInStack s) (hrun : s.fsm ≠ .faulted) :
    EndsWithFault (firstFault (faultMatrix .ret s)) s (execRet s) := by
  refine .requireDepth_one hsp <| .require ?_ <| .require ?_ <| .require ?_ <| .require ?_ <|
    .require (outsideRange_add_one_iff ..) (.next hrun)
  all_goals rw [decide_eq_true_eq, Int.not_le]

/-- Every instruction makes the checks of its row of the matrix, in the row's order. -/
theorem EndsWithFault.exec (hsp : SpInStack s) (hrun : s.fsm ≠ .faulted) (i : Instr) :
    EndsWithFault (firstFault (faultMatrix i s)) s (exec i s) := by
  cases i with
  | const => exact .requireRoom_one hsp (.next hrun)
  | add | sub | mul | lt => exact .binaryOp hrun _
  | eq => exact .binaryOp hrun fun b a => eqWord a b
  | jmp => exact .require (outsideRange_iff ..) (.next hrun)
  | jmpt a1 => exact .branchIf hsp hrun testsTrue_iff a1
  | jmpf a1 => exact .branchIf hsp hrun testsFalse_iff a1
  | load => exact .require (outsideRange_add_one_iff ..) (.requireRoom_one hsp (.next hrun))
  | store | gstore => exact .storeLocals hsp hrun _
  | gload => exact .requireDepth_one hsp (.require (outsideRange_iff ..) (.next hrun))
  | call =>
    refine .require (outsideRange_iff ..) (.require ?_ (.next hrun))
    rw [decide_eq_true_eq, Int.not_le]
    rfl
  | ret => exact .execRet hsp hrun
  | pop | print => exact .requireDepth_one hsp (.next hrun)
  | halt => exact .next nofun

/-- The matrix reads neither the host's inputs nor fsm. -/
theorem faultMatrix_consume_start (i : Instr) (s : State) :
    faultMatrix i s.consume.start = faultMatrix i s := by cases i <;> rfl

/-- Settles O14, by what the fetch found: a word it cannot decode raises its fault before any check
of an instruction. -/
theorem stepFaultsAsTheMatrixSays : Obligations.StepFaultsAsTheMatrixSays := by
  intro s hf hsp
  change EndsWithFault (stepFault s) s.consume.start (step s)
  rw [step_fetches hf, stepFault]
  cases hd : fetch s with
  | endOfProgram => obtain ⟨-, -, hpc⟩ := hf; exact absurd hd (fetch_ne_endOfProgram hpc)
  | invalidOpcode => exact .raise s.consume.start .invalidOpcode
  | truncated => exact .raise s.consume.start .outOfBoundsJump
  | ok i rest =>
    have hrunning : s.consume.start.fsm ≠ .faulted := nofun
    have hexec := EndsWithFault.exec (s := s.consume.start) hsp hrunning i
    rw [faultMatrix_consume_start] at hexec
    exact hexec

end Sys2Proof.Machine
end

section
/-! ### A fault is precise (R165) -/

namespace Sys2Proof.Machine

variable {s t : State}

/-- Under a `Step` input only a failed fetch and a failed check of an instruction lead to `Faulted`,
and both leave the state at the start of the instruction. -/
theorem step_clock_faulted {runEn cancel : Bool} (hrun : s.terminal = false)
    (hi : s.nextInput = .clock runEn cancel) (h : step s = .next t) (hfault : t.fsm = .faulted) :
    ∃ c ∈ [Cause.invalidOpcode, .stackOverflow, .stackUnderflow, .outOfBoundsJump],
      t = s.consume.faultedWith c := by
  cases step_cases h with
  | quiet _ _ _ _ e => subst e; exact absurd hfault (terminal_eq_false_iff.mp hrun).2
  | cancelled _ _ e | endOfProgram _ _ _ e => subst e; cases hfault
  | badFetch _ c hc e =>
    refine ⟨c, ?_, e⟩
    rcases hc with ⟨-, rfl⟩ | ⟨-, rfl⟩ <;> decide
  | ran _ i _ _ e =>
    rcases exec_cases e with hcheck | heffect
    · obtain ⟨-, hcause⟩ := hcheck.faulted
      obtain ⟨c, -, rfl⟩ := hcheck
      exact ⟨c, hcause, rfl⟩
    · rcases heffect.engine_eq_or_halt with ⟨hfsm, -⟩ | ⟨-, hfsm, -⟩ <;>
        rw [hfsm] at hfault <;> cases hfault
  | rst hi' | construct _ hi' => rw [hi] at hi'; cases hi'

/-- Settles O15: the report is read off the state the fault leaves. -/
theorem faultsArePrecise : Obligations.FaultsArePrecise := by
  intro s t runEn cancel hrun hi h hfault
  obtain ⟨c, hc, rfl⟩ := step_clock_faulted hrun hi h hfault
  exact ⟨rfl, hc, rfl⟩

end Sys2Proof.Machine
end

section
/-! ### The configuration error of reset, and `rst` during a run (R191, R192)

A configuration error is a terminal state, so the runs from it are those of R99; and `rst` is
`construct` with the parameters that are there, which has no old state to look at. -/

namespace Sys2Proof.Machine

variable {p : Params} {s : State}

theorem construct_ready (hstart : 0 ≤ p.startPc ∧ p.startPc < p.prog.length)
    (inputs : List HostInput) : (construct p inputs).fsm = .ready := by
  obtain ⟨-, -, -, -, -, -, -, -, ⟨-, -, hready, -⟩ | ⟨hbad, -⟩⟩ := construct_fields p inputs
  · exact hready
  · exact absurd hstart hbad

theorem construct_configurationError (hbad : ¬ (0 ≤ p.startPc ∧ p.startPc < p.prog.length))
    (inputs : List HostInput) :
    (construct p inputs).fsm = .faulted ∧ (construct p inputs).cause = .configurationError := by
  obtain ⟨-, -, -, -, -, -, -, -, ⟨hlo, hhi, -⟩ | ⟨-, hfaulted⟩⟩ := construct_fields p inputs
  · exact absurd ⟨hlo, hhi⟩ hbad
  · exact hfaulted

theorem terminal_of_faulted (h : s.fsm = .faulted) : s.terminal = true := by
  rw [State.terminal, h]

theorem faultReport_of_faulted (h : s.fsm = .faulted) :
    s.faultReport = some { cause := s.cause, pc := s.pc, sp := s.sp, fp := s.fp } := by
  rw [State.faultReport, h]

/-- Settles O18: a configuration error is terminal, so every `Step` input leaves the reset machine as
it is, and the report is read off it. -/
theorem configurationErrorNeverRuns : Obligations.ConfigurationErrorNeverRuns := by
  refine ⟨fun _ inputs hstart => construct_ready hstart inputs, fun p inputs hbad hinputs => ?_⟩
  obtain ⟨hfaulted, hcause⟩ := construct_configurationError hbad []
  obtain ⟨-, hpc, hsp, hfp, -, -, hout, -⟩ := construct_fields p []
  have hrun : runInputs (construct p []) inputs = .next ((construct p []).withInputs []) :=
    runInputs_of_terminal (terminal_of_faulted hfaulted) hinputs
  rw [← construct_withInputs] at hrun
  refine ⟨_, hrun, hfaulted, hcause, hpc, hsp, hfp, hout, ?_⟩
  rw [faultReport_of_faulted hfaulted, hcause, hpc, hsp, hfp]

/-- Settles O19: both steps are the `construct` of the same parameters and the same coming inputs. -/
theorem rstDiscardsTheRun : Obligations.RstDiscardsTheRun := by
  intro s u hs hu hparams hinputs
  obtain ⟨hp, hpc, hsp, -, -, -, hout, -⟩ := construct_fields s.params s.inputs.tail
  have hstep : step u = .next (construct s.params s.inputs.tail) := by
    rw [step_rst hu, hparams, hinputs]
  exact ⟨_, step_rst hs, hstep, hp, hsp, hout, hpc⟩

end Sys2Proof.Machine
end
